-- ==== Sys2Proof/Word.lean ====
section
/-! DEFINITION. The byte, the unit in which the hosts and the settings memory see the part (R179). -/

namespace Sys2Proof

/-- A byte of a frame, a transaction, a reply or the settings memory. -/
abbrev Byte := BitVec 8

end Sys2Proof
end

