-- ==== Sys2Proof/Syntax.lean ====
section
/-! DEFINITION. The commands: one constructor of Instr per row of spec/opcode_table.json, with what the outside supplies at that
event as operands. -/

namespace Sys2Proof

/-- Levels of the appliance input lines at a slice boundary (section 1.3): high means asserted, open, present. -/
structure Lines where
  hcall : Bool
  door  : Bool
  shed  : Bool
  /-- FLM1..FLM6, station H1 in bit 0. -/
  flm   : BitVec 6
  deriving DecidableEq, Repr

/-- One block's indivisible share of the work at one boundary of the Time Base (R84). Orders between these shares are the
orders that the rules leave open (log 2). -/
inductive Work where
  /-- The Record Engine's work on the record of one slot, if it is RUNNING then (R45, R46, R50, R56). -/
  | count (slot : Nat)
  /-- The Burner Drive's judgement of one gas station (R13). -/
  | judge (station : Nat)
  /-- The Apportioner's steps inside a period (R104). -/
  | relays
  /-- The Apportioner closes the ending period (R97). -/
  | closePeriod
  /-- The Apportioner opens the new period, and the standings of R46 are set (R98). -/
  | openPeriod
  /-- The Alert Unit's pattern phase and sound timer (R126, R127). -/
  | alertTick
  /-- The Snapshot Buffer's count towards the fall of SYNC (R92). -/
  | syncTick
  /-- The advance of the time of day (R85) and, at the same event, all the start conditions of a second boundary (R68, R69, R76). -/
  | clock
  /-- No share of its own but a note for the share clock: the offset count of this slot began at this boundary, and first falls at the
  next second boundary (R76). No operand names it. -/
  | released (slot : Nat)
  /-- The refresh of the Snapshot Buffer (R90). -/
  | refresh
  /-- The end of the start-up load (R176). -/
  | loadEnd
  deriving DecidableEq, Repr

/-- The commands of the block: the rows of spec/opcode_table.json. -/
inductive Instr where
  /-- POWER_ON (R8): RADR pins, status bytes the memory answers (R175), whether a page write under way was completed by the memory. -/
  | powerOn (radr : BitVec 2) (status : List Byte) (landed : Bool)
  /-- RESETN_LOW (R8): whether a page write under way is completed by the memory itself (R178). -/
  | resetnLow (landed : Bool)
  /-- RESETN_RELEASE (R8). -/
  | resetnRelease (radr : BitVec 2) (status : List Byte)
  /-- LOAD_ENTRY (R176): the next entry of the image. -/
  | loadEntry
  /-- LOAD_END (R176). -/
  | loadEnd
  /-- SLICE_BOUNDARY (R82): the line levels, the work taken first in this order, the work left to later events (log 2). -/
  | sliceBoundary (lines : Lines) (first : List Work) (later : List Work)
  /-- SECOND_BOUNDARY (R84): second-boundary work not yet taken. -/
  | secondBoundary
  /-- PERIOD_BOUNDARY (R98): period work not yet taken. -/
  | periodBoundary
  /-- SYNC_FALL (R92). -/
  | syncFall
  /-- DELAY_DUE (R68). -/
  | delayDue (slot : Nat)
  /-- OFFSET_DUE (R76). -/
  | offsetDue (slot : Nat)
  /-- STAGE_END (R51). -/
  | stageEnd (slot : Nat)
  /-- RECORD_END (R52). -/
  | recordEnd (slot : Nat)
  /-- FLAME_LOSS (R14). -/
  | flameLoss (station : Nat)
  /-- SOUND_TIMEOUT (R127). -/
  | soundTimeout
  /-- CREATE (R150): the Command Unit takes a queued CREATE; likewise for the twenty-one commands below. -/
  | create
  | retire
  | pause
  | resume
  | adjust
  | setLevel
  | skip
  | start
  | query
  | list
  | nextAlert
  | ack
  | silence
  | setClock
  | window
  | setItem
  | getItem
  | storeSettings
  | settingsStatus
  | grant
  | softReset
  | stationReset
  /-- BAD_COMMAND (R141). -/
  | badCommand
  /-- STORE_WRITE_COMPLETE (R177). -/
  | storeWriteComplete
  /-- STORE_WRITE_TIMEOUT (R178): the bytes the memory was left with at the addresses of the write (log 10). -/
  | storeWriteTimeout (left : List Byte)
  /-- PCS_FALL (R159). -/
  | pcsFall
  /-- FRAME_TYPE_BYTE (R159). -/
  | frameTypeByte (type : Byte)
  /-- COMMAND_FRAME_END (R160): the complete bytes received after the type byte. -/
  | commandFrameEnd (bytes : List Byte)
  /-- FETCH_LENGTH_BYTE (R161). -/
  | fetchLengthByte
  /-- WINDOW_ENTRY (R165). -/
  | windowEntry
  /-- READ_WINDOW_END (R91). -/
  | readWindowEnd
  /-- PORT_STATUS_BYTE (R163): whether the status byte was clocked out to its last bit. -/
  | portStatusByte (clockedOut : Bool)
  /-- I2C_ADDRESS (R167): a START, the address and the read bit. -/
  | i2cAddress (address : BitVec 7) (read : Bool)
  /-- REMOTE_WRITE_FIRST_BYTE (R168). -/
  | remoteWriteFirstByte (byte : Byte)
  /-- REMOTE_WRITE_OVERLONG (R168). -/
  | remoteWriteOverlong
  /-- REMOTE_WRITE_END (R168): the data bytes after the first. -/
  | remoteWriteEnd (rest : List Byte)
  /-- PCS_RISE (R159). -/
  | pcsRise
  /-- READ_TRANSACTION_END (R169). -/
  | readTransactionEnd
  /-- COMMAND_WITHOUT_CODE (R141). -/
  | commandWithoutCode
  deriving DecidableEq, Repr

end Sys2Proof
end

