-- ==== Sys2Proof/Config.lean ====
section
/-! DEFINITION. What the spec fixes once for the part: the settings items of R171, the capacities of the table and of the
ports, the limits of stage times, and the constants of the settings memory. -/

namespace Sys2Proof.Config

/-- One row of the table of R171: an item id, its range, the step its value must be a multiple of, its default. -/
structure Item where
  id   : Nat
  low  : Nat
  high : Nat
  step : Nat
  dflt : Nat
  deriving DecidableEq, Repr

/-- Ratings and ranks of UE, LE, RE, GI, GO (R2, R3, R171). -/
def elementItems : List Item :=
  [⟨0x10, 100, 3600, 10, 1100⟩, ⟨0x11, 100, 3600, 10, 1200⟩, ⟨0x12, 100, 3600, 10, 2000⟩,
   ⟨0x13, 100, 3600, 10, 1400⟩, ⟨0x14, 100, 3600, 10, 1000⟩,
   ⟨0x20, 0, 7, 1, 3⟩, ⟨0x21, 0, 7, 1, 4⟩, ⟨0x22, 0, 7, 1, 2⟩, ⟨0x23, 0, 7, 1, 0⟩, ⟨0x24, 0, 7, 1, 1⟩]

/-- Budget B and shed budget Bs (R95, R171). The upper bound of Bs in this table is the one of the start-up load (R176);
SET ITEM checks Bs against the working B (R172). -/
def budgetItems : List Item :=
  [⟨0x30, 1000, 7200, 10, 3000⟩, ⟨0x31, 0, 7200, 10, 1500⟩]

/-- Priorities of the six alert kinds (R118, R171). -/
def priorityItems : List Item :=
  [⟨0x40, 0, 15, 1, 14⟩, ⟨0x41, 0, 15, 1, 10⟩, ⟨0x42, 0, 15, 1, 8⟩,
   ⟨0x43, 0, 15, 1, 6⟩, ⟨0x44, 0, 15, 1, 5⟩, ⟨0x45, 0, 15, 1, 4⟩]

/-- Remote permissions of the eight stations: 0 NONE, 1 VIEW, 2 FULL (R144, R171). -/
def permissionItems : List Item :=
  [⟨0x50, 0, 2, 1, 1⟩, ⟨0x51, 0, 2, 1, 1⟩, ⟨0x52, 0, 2, 1, 1⟩, ⟨0x53, 0, 2, 1, 1⟩,
   ⟨0x54, 0, 2, 1, 1⟩, ⟨0x55, 0, 2, 1, 1⟩, ⟨0x56, 0, 2, 1, 1⟩, ⟨0x57, 0, 2, 1, 1⟩]

/-- Flame grace, sound timeout, starvation limit (R171). -/
def supervisionItems : List Item :=
  [⟨0x60, 3, 30, 1, 10⟩, ⟨0x61, 30, 600, 1, 120⟩, ⟨0x62, 2, 60, 1, 6⟩]

/-- The 29 items in ascending id order (R171, R177). -/
def items : List Item :=
  elementItems ++ budgetItems ++ priorityItems ++ permissionItems ++ supervisionItems

/-- Item id of budget B. -/
abbrev budgetId : Nat := 0x30
/-- Item id of shed budget Bs. -/
abbrev shedId : Nat := 0x31
/-- Item id of the flame grace. -/
abbrev graceId : Nat := 0x60
/-- Item id of the sound timeout. -/
abbrev soundId : Nat := 0x61
/-- Item id of the starvation limit. -/
abbrev starvationId : Nat := 0x62

/-- Slots of the Schedule Table (R17). -/
abbrev slotCount : Nat := 48
/-- Greatest number of records of one station (R18). -/
abbrev stationCapacity : Nat := 6
/-- Station index of the oven (1.1). -/
abbrev OV : Nat := 6
/-- Station index of the grill (1.1). -/
abbrev GR : Nat := 7

/-- Least stage time in force, in deciseconds (R58). -/
abbrev minStage : Nat := 10
/-- Greatest stage time, in deciseconds (R41). -/
abbrev maxStage : Nat := 863990
/-- Greatest duration, in seconds (R41). -/
abbrev maxSeconds : Nat := 86399
/-- Seconds of a day (R70). -/
abbrev daySeconds : Nat := 86400
/-- Slices of a period (6.1). -/
abbrev periodSlices : Nat := 100

/-- Capacity of each panel queue (R137). -/
abbrev panelCapacity : Nat := 8
/-- Capacity of each remote queue (R137). -/
abbrev remoteCapacity : Nat := 4
/-- Longest command, in bytes (R160, R168). -/
abbrev commandBytes : Nat := 64

/-- What a byte of the settings memory that nothing has written reads as. DESIGN CHOICE, unsafe: log 6. -/
abbrev erased : Byte := 0xFF#8
/-- Signature byte of a whole image (R186). -/
abbrev signature : Byte := 0xA6#8
/-- Version byte of the image (R186). -/
abbrev version : Byte := 0x01#8
/-- Greatest byte count of the entries that a load reads (R175). -/
abbrev maxImage : Nat := 1536

end Sys2Proof.Config
end

