-- ==== Sys2Proof/Machine/State.lean ====
section
/-! DEFINITION. The state of the part, block by block as section 1.2 of the spec names them, and its value after reset. -/

namespace Sys2Proof.Machine

/-- A host port (section 3.9). -/
inductive Port where
  | panel
  | remote
  deriving DecidableEq, Repr

/-- Result codes of replies (section 3.5). -/
inductive ResultCode where
  | ok
  | badCommand
  | badFrame
  | badParam
  | noSlot
  | stationFull
  | noRecord
  | wrongState
  | denied
  | chainTooDeep
  | noClock
  | busy
  | notReady
  deriving DecidableEq, Repr

/-- The six alert kinds (R116). -/
inductive AlertKind where
  | flameLost
  | recordEnd
  | starved
  | linkBroken
  | stageEnd
  | reminder
  deriving DecidableEq, Repr

/-- States of a record; EMPTY is a slot without one (R21). -/
inductive RecordState where
  | armed
  | queued
  | running
  | paused
  | held
  | ended
  deriving DecidableEq, Repr

/-- Basis of a stage (section 3.1). -/
inductive Basis where
  | wall
  | compensated
  deriving DecidableEq, Repr

/-- Kinds of start condition (section 4.1). -/
inductive StartKind where
  | now
  | manual
  | delay
  | clockTime
  | after
  deriving DecidableEq, Repr

/-- Period standing of an electric record (R46). -/
inductive Standing where
  | whole
  | part (count : Nat)
  | void
  deriving DecidableEq, Repr

/-- One stage of a record (section 3.1). -/
structure Stage where
  level    : Nat
  /-- FULL on the grill; clear elsewhere (log 16). -/
  full     : Bool
  setpoint : Option Nat
  /-- Deciseconds. -/
  duration : Nat
  basis    : Basis
  /-- The second choice of end action: ALERT, or KEEP on the last stage (R41). -/
  second   : Bool
  deriving DecidableEq, Repr

/-- The start condition of a record (section 4.1). -/
structure StartCondition where
  kind   : StartKind
  count  : Nat
  minute : Nat
  linked : Nat
  offset : Nat
  deriving DecidableEq, Repr

/-- A schedule record (section 2.2), with its countdown state (3.3), its supervision state (1.6) and its row of the pending
table (R117). -/
structure Record where
  station       : Nat
  origin        : Port
  state         : RecordState
  start         : StartCondition
  detached      : Bool
  stages        : List Stage
  /-- Current stage index, 1 for the first stage, 0 before the start. -/
  stage         : Nat
  remaining     : Nat
  acc           : Nat
  starve        : Nat
  starvedRaised : Bool
  reminder      : Option Nat
  reminderDone  : Bool
  standing      : Standing
  grace         : Nat
  absent        : Nat
  flameOut      : Bool
  keep          : Bool
  /-- Pending alert flags, kind k in bit k (R117). -/
  alerts        : BitVec 6
  deriving DecidableEq, Repr

/-- The Schedule Table: slots 1..48, head reference and queue of each station (R17). -/
structure Table where
  slots  : List (Option Record)
  heads  : List Nat
  queues : List (List Nat)
  deriving DecidableEq, Repr

/-- A burner: its commanded level (R11) and the slot of the record the level comes from (R12), 0 for none. -/
structure Burner where
  level  : Nat
  source : Nat
  deriving DecidableEq, Repr

/-- What the Apportioner holds for one element (section 6.1). -/
structure Element where
  /-- The slices of the plan in which the element is on, ascending. -/
  on        : List Nat
  request   : Nat
  grant     : Nat
  delivered : Nat
  blocked   : Bool
  /-- Rating in force (R2). -/
  rating    : Nat
  /-- Rank in force (R3). -/
  rank      : Nat
  /-- The level of the relay line (R9). -/
  relay     : Bool
  deriving DecidableEq, Repr

/-- Requested and delivered energy of a closed period (R47). -/
structure Figures where
  requested : Nat
  delivered : Nat
  deriving DecidableEq, Repr

/-- The Apportioner (section 6.1). -/
structure Apportioner where
  elements     : List Element
  budget       : Nat
  shedBudget   : Nat
  periodBudget : Nat
  sliceBudget  : Nat
  oven         : Figures
  grill        : Figures
  deriving DecidableEq, Repr

/-- A context of the annunciator (R120). -/
structure Context where
  slot     : Nat
  kind     : AlertKind
  priority : Nat
  muted    : Bool
  deriving DecidableEq, Repr

/-- The annunciator (R120). -/
structure Annunciator where
  current : Option Context
  /-- Saved contexts, newest first. -/
  stack   : List Context
  timer   : Nat
  phase   : Nat
  /-- The current context started sounding in the boundary work in progress (log 17). -/
  fresh   : Bool
  /-- The sound timer of the sounding context that a preemption set aside since the latest slice boundary; the boundary's expiry,
  if that timer comes to it there, falls to the context that preempted (R129; log 33). -/
  ousted  : Option Nat
  deriving DecidableEq, Repr

/-- The Time Base (R82, R85) with the sampled lines (R4). -/
structure TimeBase where
  cycle   : Nat
  slice   : Nat
  second  : Nat
  /-- Reading in seconds of day. -/
  clock   : Nat
  valid   : Bool
  /-- The lines as sampled at the latest slice boundary. -/
  lines   : Lines
  /-- The lines as sampled at the boundary before it; absent where no change is to be reported. -/
  prior   : Option Lines
  /-- A slice boundary has sampled the lines since the release. -/
  sampled : Bool
  deriving DecidableEq, Repr

/-- A display entry of the Snapshot Buffer (R88). -/
structure Entry where
  slot      : Nat
  station   : Nat
  stateByte : Nat
  stage     : Nat
  stages    : Nat
  level     : Nat
  /-- Absent for the no-time value (R89). -/
  remaining : Option Nat
  total     : Nat
  alerts    : BitVec 6
  deriving DecidableEq, Repr

/-- The Snapshot Buffer (section 5.3). -/
structure SnapshotBuffer where
  entries   : List Entry
  deferred  : Bool
  syncCount : Nat
  deriving DecidableEq, Repr

/-- A reply: tag, result code, data (R135). -/
structure Reply where
  tag  : Byte
  code : ResultCode
  data : List Byte
  deriving DecidableEq, Repr

/-- The panel frame in progress with its type, the bytes taken so far and what it sends (R159). -/
inductive Frame where
  | idle
  /-- PCS is low and the type byte is not complete. -/
  | untyped
  /-- The complete bytes taken so far after the type byte (log 14). -/
  | command (taken : List Byte)
  /-- The length byte and the reply's bytes, once the length byte is begun; the length byte alone for an empty queue (R161). -/
  | fetch (sent : Option (List Byte))
  /-- The entry being sent, if one is begun (R165). -/
  | window (entry : Option (List Byte))
  /-- The status byte and the MALFORMED count held after it, once formed (R163). -/
  | status (sent : Option (Byte × Byte))
  | unknown
  deriving DecidableEq, Repr

/-- The Panel Port (section 9.1). -/
structure PanelPort where
  commands  : List (List Byte)
  replies   : List Reply
  overrun   : Bool
  malformed : Nat
  first     : Nat
  last      : Nat
  cursor    : Nat
  frame     : Frame
  deriving DecidableEq, Repr

/-- The remote transaction in progress (section 9.4). -/
inductive Transaction where
  | idle
  /-- A write whose address byte was acknowledged, without a data byte yet. -/
  | addressed
  /-- A write whose data bytes are acknowledged, with its first data byte. -/
  | collecting (first : Byte)
  /-- A write dropped by an unacknowledged data byte (R168). -/
  | dropped
  /-- A read with the bytes it sends (R169). -/
  | reading (bytes : List Byte)
  deriving DecidableEq, Repr

/-- The Remote Port (section 9.4). -/
structure RemotePort where
  commands    : List (List Byte)
  replies     : List Reply
  address     : BitVec 7
  transaction : Transaction
  /-- The port acknowledged the last address or data byte it was offered. -/
  ack         : Bool
  deriving DecidableEq, Repr

/-- Loader status (section 10.1). -/
inductive LoaderStatus where
  | loading
  | absent
  | blank
  | loaded
  deriving DecidableEq, Repr

/-- What the memory link carries (R174). -/
inductive Transfer where
  /-- One transfer: the bytes sent while MCSn is low, and the bytes received after them. -/
  | exchange (sent received : List Byte)
  /-- Status reads one after another, each sending the byte given and receiving a status byte that reads busy; where the polling
  clears, the last of them reads busy clear. How many there are is a matter of time, and no row tells of their other bits (log 34). -/
  | polling (sent : Byte) (clears : Bool)
  deriving DecidableEq, Repr

/-- Store status (section 10.1) with the write in progress or failed. -/
inductive StoreStatus where
  | none
  | inProgress (write : Nat)
  | ok
  | failed (write : Nat)
  deriving DecidableEq, Repr

/-- The Settings Unit (section 10.1) with the load in progress (R175). -/
structure SettingsUnit where
  /-- Working values in the order of Config.items. -/
  values       : List Nat
  loader       : LoaderStatus
  applied      : Nat
  skipped      : Nat
  rejected     : Nat
  partialEntry : Bool
  /-- The status the load in progress will end with. -/
  finding      : LoaderStatus
  /-- Whole entries of the image that the load reads. -/
  entryCount   : Nat
  /-- Entries read so far. -/
  entriesRead  : Nat
  store        : StoreStatus
  /-- The image of the store in progress (R177). -/
  image        : List Byte
  deriving DecidableEq, Repr

/-- The whole machine. -/
structure State where
  /-- RESETn is low (R8). -/
  held       : Bool
  time       : TimeBase
  table      : Table
  burners    : List Burner
  app        : Apportioner
  ann        : Annunciator
  settings   : SettingsUnit
  snap       : SnapshotBuffer
  panel      : PanelPort
  remote     : RemotePort
  /-- The last port served (R137). -/
  lastServed : Port
  /-- Contents of the external settings memory (log 6). -/
  memory     : List Host.Cell
  /-- The transfers that the latest event to use the memory link made on it, in order (R174; log 34). -/
  link       : List Transfer
  /-- Work of the boundary in progress not yet taken (log 2). -/
  todo       : List Work
  /-- The commands waiting, first in first out. -/
  pending    : List Instr
  deriving DecidableEq, Repr

/-- No meaning of this model stops with a fault: the spec names nothing that stops the part, and answers every command it
refuses with a result code (section 3.5). -/
inductive Fault where
  deriving DecidableEq, Repr

/-- Reasons to have no meaning for a command. -/
inductive Refusal where
  /-- Raised by an arm of exec whose command has no meaning yet; no arm raises it now. Safe: nothing is claimed there. -/
  | notModelled (mnemonic : String)
  deriving DecidableEq, Repr

/-- The empty Schedule Table (R17). -/
def Table.empty : Table :=
  { slots := List.replicate Config.slotCount none, heads := List.replicate 8 0, queues := List.replicate 8 [] }

/-- An element with no plan and the given settings in force. -/
def Element.idle (rating rank : Nat) : Element :=
  { on := [], request := 0, grant := 0, delivered := 0, blocked := false, rating := rating, rank := rank, relay := false }

/-- The Apportioner after power-on (R94): the ratings and ranks in force are the defaults. -/
def Apportioner.powerUp : Apportioner :=
  { elements := [Element.idle 1100 3, Element.idle 1200 4, Element.idle 2000 2, Element.idle 1400 0, Element.idle 1000 1]
    budget := 0, shedBudget := 0, periodBudget := 0, sliceBudget := 0, oven := ⟨0, 0⟩, grill := ⟨0, 0⟩ }

/-- The quiet annunciator (R120). -/
def Annunciator.quiet : Annunciator :=
  { current := none, stack := [], timer := 0, phase := 0, fresh := false, ousted := none }

/-- The Time Base after power-on (R83, R85); HCALL and SHED count as deasserted and DOOR as closed (R4). -/
def TimeBase.powerUp : TimeBase :=
  { cycle := 0, slice := 0, second := 0, clock := 0, valid := false
    lines := ⟨false, false, false, 0#6⟩, prior := none, sampled := false }

/-- The EMPTY entry of a slot (R88). -/
def Entry.empty (k : Nat) : Entry :=
  { slot := k, station := 0, stateByte := 0, stage := 0, stages := 0, level := 0, remaining := some 0, total := 0, alerts := 0#6 }

/-- The slot numbers 1..48 (R17). -/
def allSlots : List Nat := (List.range Config.slotCount).map (· + 1)

/-- The Snapshot Buffer after power-on (R93). -/
def SnapshotBuffer.powerUp : SnapshotBuffer :=
  { entries := allSlots.map Entry.empty, deferred := false, syncCount := 0 }

/-- The Panel Port after power-on (section 9.1). -/
def PanelPort.powerUp : PanelPort :=
  { commands := [], replies := [], overrun := false, malformed := 0, first := 1, last := Config.slotCount, cursor := 1
    frame := .idle }

/-- The Remote Port after power-on, with the address that RADR1..RADR0 select (R167). -/
def RemotePort.powerUp (radr : BitVec 2) : RemotePort :=
  { commands := [], replies := [], address := 0x52#7 + radr.zeroExtend 7, transaction := .idle, ack := false }

/-- The Settings Unit as a start-up load begins (R175): defaults, LOADING, and what the reading of status and header found. -/
def SettingsUnit.powerUp (finding : LoaderStatus) (entryCount : Nat) (partialEntry : Bool) : SettingsUnit :=
  { values := Config.items.map Config.Item.dflt, loader := .loading, applied := 0, skipped := 0, rejected := 0
    partialEntry := partialEntry, finding := finding, entryCount := entryCount, entriesRead := 0
    store := .none, image := [] }

/-- The part right after power-on or the release of RESETn (R8): every block in its power-on state. -/
def State.powerUp (radr : BitVec 2) (settings : SettingsUnit) (memory : List Host.Cell) (pending : List Instr) : State :=
  { held := false, time := .powerUp, table := .empty, burners := List.replicate 6 ⟨0, 0⟩, app := .powerUp, ann := .quiet
    settings := settings, snap := .powerUp, panel := .powerUp, remote := .powerUp radr, lastServed := .remote
    memory := memory, link := [], todo := [], pending := pending }

/-- The machine right after reset: the start-up load is in progress. RADR pins low: log 8; a settings memory that nothing has
written, found blank: log 6, log 9. -/
def State.reset : State := State.powerUp 0#2 (.powerUp .blank 0 false) [] []

end Sys2Proof.Machine
end

