-- ==== Sys2Proof/Machine/Ops.lean ====
section
/-! DEFINITION. The named operations over the settings memory, the working settings, the Schedule Table's slots, heads and queues,
and the records in them. -/

namespace Sys2Proof.Machine

/-! ### Settings memory (R174) -/

/-- The canonical form of the memory's contents: addresses strictly rising, no entry equal to an erased byte. -/
abbrev Memory.wf (m : List Host.Cell) : Prop :=
  m.Pairwise (fun x y => x.1 < y.1) ∧ ∀ c ∈ m, c.2 ≠ Config.erased

/-- The byte at an address. -/
def Memory.read (m : List Host.Cell) (a : Nat) : Byte :=
  match m with
  | [] => Config.erased
  | (b, v) :: rest => if a = b then v else Memory.read rest a

/-- The bytes at n addresses from a on. -/
def Memory.readBytes (m : List Host.Cell) (a n : Nat) : List Byte :=
  (List.range n).map (fun i => Memory.read m (a + i))

/-- Write one byte, keeping the canonical form. -/
def Memory.write (m : List Host.Cell) (a : Nat) (v : Byte) : List Host.Cell :=
  match m with
  | [] => if v = Config.erased then [] else [(a, v)]
  | (b, w) :: rest =>
    if a < b then (if v = Config.erased then (b, w) :: rest else (a, v) :: (b, w) :: rest)
    else if a = b then (if v = Config.erased then rest else (a, v) :: rest)
    else (b, w) :: Memory.write rest a v

/-- Write bytes at consecutive addresses. -/
def Memory.writeBytes (m : List Host.Cell) (a : Nat) : List Byte → List Host.Cell
  | [] => m
  | v :: vs => Memory.writeBytes (Memory.write m a v) (a + 1) vs

/-! ### Memory link (R174) -/

/-- An address as the memory link sends it: two bytes, the high one first (R174, R179). -/
def addressBytes (a : Nat) : List Byte := [BitVec.ofNat 8 (a / 256), BitVec.ofNat 8 a]

/-- A status read, and the status byte it receives. -/
def Transfer.readStatus (status : Byte) : Transfer := .exchange [0x0D#8] [status]

/-- A read of n data bytes from an address on. -/
def Transfer.readData (m : List Host.Cell) (a n : Nat) : Transfer :=
  .exchange (0x0B#8 :: addressBytes a) (Memory.readBytes m a n)

/-- A write enable. -/
def Transfer.writeEnable : Transfer := .exchange [0x0E#8] []

/-- A page write. -/
def Transfer.pageWrite (a : Nat) (data : List Byte) : Transfer := .exchange (0x0A#8 :: (addressBytes a ++ data)) []

/-- The status reads after a page write: they end with the first that reads busy clear, or all read busy (R174). -/
def Transfer.polls (clears : Bool) : Transfer := .polling 0x0D#8 clears

/-- The memory's busy indication in a status byte. -/
def busy (status : Byte) : Bool := status.getLsbD 0

/-! ### Working settings (R171) -/

/-- The row of an item id, with its place among the 29. -/
def itemAt (id : Nat) : Option (Nat × Config.Item) :=
  (Config.items.zipIdx.find? (fun p => p.1.id == id)).map (fun p => (p.2, p.1))

/-- The place of an item id among the 29 items; 29 for an unknown id. -/
def itemIndex (id : Nat) : Nat := (itemAt id).elim Config.items.length Prod.fst

/-- The working value of an item. -/
def SettingsUnit.value (u : SettingsUnit) (id : Nat) : Nat := u.values.getD (itemIndex id) 0

/-- Replace the working value of an item. -/
def SettingsUnit.withValue (u : SettingsUnit) (id v : Nat) : SettingsUnit :=
  { u with values := u.values.set (itemIndex id) v }

/-- A value lies in an item's range and is a whole multiple of its step (R171). The worked example after R176 rejects 1,450 W for item
0x0013, which this rule and R2 accept: the model follows the rule (log 36). -/
def itemAccepts (it : Config.Item) (v : Nat) : Bool :=
  it.low ≤ v && v ≤ it.high && v % it.step == 0

/-- Working rating of an element (R2). -/
def SettingsUnit.rating (u : SettingsUnit) (e : Nat) : Nat := u.value (0x10 + e)
/-- Working rank of an element (R3). -/
def SettingsUnit.rank (u : SettingsUnit) (e : Nat) : Nat := u.value (0x20 + e)
/-- Remote permission of a station: 0 NONE, 1 VIEW, 2 FULL (R144). -/
def SettingsUnit.permission (u : SettingsUnit) (st : Nat) : Nat := u.value (0x50 + st)

/-- A store is in progress (R142). -/
def SettingsUnit.storing (u : SettingsUnit) : Bool :=
  match u.store with
  | .inProgress _ => true
  | .none | .ok | .failed _ => false

/-! ### Stations and elements (1.1) -/

/-- A gas station: H1..H6. -/
def isGas (st : Nat) : Bool := st < Config.OV

/-- The elements of an electric station, by index (section 1.1 of the overview). -/
def stationElements (st : Nat) : List Nat :=
  if st = Config.OV then [0, 1, 2] else if st = Config.GR then [3, 4] else []

/-- The element set that a stage's level selects (R1). -/
def elementSet (st : Nat) (g : Stage) : List Nat :=
  if st = Config.OV then
    match g.level with
    | 1 => [0, 1]
    | 2 => [2]
    | 3 => [1]
    | 4 => [0]
    | 5 => [2, 1]
    | _ => []
  else if st = Config.GR then (if g.full then [3, 4] else [3])
  else []

/-! ### Records -/

/-- A stage of the list by its index 1..8. -/
def Record.stageAt? (r : Record) (i : Nat) : Option Stage := if i = 0 then none else r.stages[i - 1]?

/-- The stage whose level the record stands for: current while RUNNING, PAUSED or HELD, the first while ARMED or QUEUED, the last
when ENDED (R59, R88). -/
def Record.shownIndex (r : Record) : Nat :=
  match r.state with
  | .running | .paused | .held => r.stage
  | .armed | .queued => 1
  | .ended => r.stages.length

/-- The stage of shownIndex. -/
def Record.shownStage? (r : Record) : Option Stage := r.stageAt? r.shownIndex

/-- A record that controls its station's heat (R21). -/
def Record.isHead (r : Record) : Bool :=
  match r.state with
  | .running | .paused | .held => true
  | .ended => r.keep
  | .armed | .queued => false

/-- The record holds a link: ARMED in the link phase (section 4.1). -/
def Record.holdsLink (r : Record) : Bool :=
  r.state == .armed && r.start.kind == .after && r.start.linked != 0

/-- The record holds a link to the record of slot k. -/
def Record.waitsOn (r : Record) (k : Nat) : Bool := r.holdsLink && r.start.linked == k

/-- The start condition counts at second boundaries: a DELAY, or an AFTER in its offset phase (R68, R76). -/
def Record.countsStart (r : Record) : Bool :=
  r.state == .armed && (r.start.kind == .delay || (r.start.kind == .after && r.start.linked == 0))

/-- An ARMED record that waits for a minute of the day (R69). -/
def Record.waitsClock (r : Record) : Bool := r.state == .armed && r.start.kind == .clockTime

/-- The start condition as it stands once the record has fallen due (R64). -/
def Record.spend (r : Record) : Record := { r with start := { r.start with count := 0, linked := 0 } }

/-- Durations of the stages after the i-th. -/
def Record.laterDurations (r : Record) (i : Nat) : Nat := ((r.stages.drop i).map Stage.duration).sum

/-- Total remaining time in deciseconds (R44). -/
def Record.total (r : Record) : Nat :=
  match r.state with
  | .armed | .queued => r.laterDurations 0
  | .running | .paused | .held => r.remaining + r.laterDurations r.stage
  | .ended => 0

/-- Seconds from a clock reading to the due instant of an AT record, 1..86,400 (R70). -/
def clockCountdown (reading minute : Nat) : Nat :=
  if reading < minute * 60 then minute * 60 - reading else Config.daySeconds - (reading - minute * 60)

/-- Start countdown of an ARMED record; none is the no-time value (R80). -/
def Record.startCountdown (r : Record) (reading : Nat) : Option Nat :=
  match r.start.kind with
  | .delay => some r.start.count
  | .clockTime => some (clockCountdown reading r.start.minute)
  | .after => if r.start.linked = 0 then some r.start.count else none
  | .manual | .now => none

/-- The beginning of stage i (R43): time loaded, accumulator, starvation counter and starved-raised flag reset; an electric
record takes PARTIAL with a count of 0, which the opening of a period replaces when it is taken at a period boundary (R46). -/
def Record.beginStage (r : Record) (i : Nat) : Record :=
  { r with
    stage := i
    remaining := (r.stageAt? i).elim 0 Stage.duration
    acc := 0
    starve := 0
    starvedRaised := false
    standing := if isGas r.station then r.standing else .part 0 }

/-! ### The table -/

/-- The record of a slot, if the slot is not EMPTY. -/
def Table.rec? (t : Table) (k : Nat) : Option Record := if k = 0 then none else t.slots.getD (k - 1) none

/-- Put a record into a slot, or make it EMPTY. -/
def Table.put (t : Table) (k : Nat) (r : Option Record) : Table :=
  if k = 0 then t else { t with slots := t.slots.set (k - 1) r }

/-- Change the record of a slot. -/
def Table.modify (t : Table) (k : Nat) (f : Record → Record) : Table :=
  match t.rec? k with
  | none => t
  | some r => t.put k (some (f r))

/-- Head reference of a station, 0 for none. -/
def Table.head (t : Table) (st : Nat) : Nat := t.heads.getD st 0
/-- Set the head reference of a station. -/
def Table.setHead (t : Table) (st k : Nat) : Table := { t with heads := t.heads.set st k }
/-- Queue of a station, oldest first. -/
def Table.queue (t : Table) (st : Nat) : List Nat := t.queues.getD st []
/-- Set the queue of a station. -/
def Table.setQueue (t : Table) (st : Nat) (q : List Nat) : Table := { t with queues := t.queues.set st q }

/-- The head record of a station. -/
def Table.headRec? (t : Table) (st : Nat) : Option Record := t.rec? (t.head st)

/-- The slots, ascending, of the records that satisfy p. -/
def Table.slotsWhere (t : Table) (p : Record → Bool) : List Nat :=
  allSlots.filter (fun k => (t.rec? k).elim false p)

/-- Station count (R17). -/
def Table.stationCount (t : Table) (st : Nat) : Nat := (t.slotsWhere (fun r => r.station == st)).length
/-- Table count (R17). -/
def Table.count (t : Table) : Nat := (t.slotsWhere (fun _ => true)).length
/-- The lowest-numbered EMPTY slot (R19). -/
def Table.free? (t : Table) : Option Nat := allSlots.find? (fun k => (t.rec? k).isNone)

/-- The element set of a station, found from its head (R1). -/
def Table.elements (t : Table) (st : Nat) : List Nat :=
  match t.headRec? st with
  | none => []
  | some r => if r.isHead then (r.shownStage?).elim [] (elementSet st) else []

/-- Chain depth of the record in slot k, counted up to the fuel given (R74). -/
def Table.depth (t : Table) : Nat → Nat → Nat
  | 0, _ => 0
  | fuel + 1, k =>
    match t.rec? k with
    | none => 0
    | some r => if r.holdsLink then 1 + t.depth fuel r.start.linked else 0

/-- The slots of a station in LIST order (R34): head, queue, ARMED, ENDED without the keep mark. -/
def Table.listing (t : Table) (st : Nat) : List Nat :=
  (if t.head st = 0 then [] else [t.head st]) ++ t.queue st
    ++ t.slotsWhere (fun r => r.station == st && r.state == .armed)
    ++ t.slotsWhere (fun r => r.station == st && r.state == .ended && !r.keep)

/-! ### The whole state -/

/-- Replace the Schedule Table. -/
def State.withTable (s : State) (t : Table) : State := { s with table := t }
/-- Replace the burners. -/
def State.withBurners (s : State) (b : List Burner) : State := { s with burners := b }
/-- Replace the Apportioner. -/
def State.withApp (s : State) (a : Apportioner) : State := { s with app := a }
/-- Replace the annunciator. -/
def State.withAnn (s : State) (a : Annunciator) : State := { s with ann := a }
/-- Replace the Settings Unit. -/
def State.withSettings (s : State) (u : SettingsUnit) : State := { s with settings := u }
/-- Replace the Snapshot Buffer. -/
def State.withSnap (s : State) (b : SnapshotBuffer) : State := { s with snap := b }
/-- Replace the Panel Port. -/
def State.withPanel (s : State) (p : PanelPort) : State := { s with panel := p }
/-- Replace the Remote Port. -/
def State.withRemote (s : State) (p : RemotePort) : State := { s with remote := p }
/-- Replace the Time Base. -/
def State.withTime (s : State) (t : TimeBase) : State := { s with time := t }
/-- Replace the contents of the settings memory. -/
def State.withMemory (s : State) (m : List Host.Cell) : State := { s with memory := m }
/-- Show the transfers of an event, if it made any, as the latest of the memory link. -/
def State.withLink (s : State) (ts : List Transfer) : State := if ts.isEmpty then s else { s with link := ts }
/-- Replace the boundary work not yet taken. -/
def State.withTodo (s : State) (w : List Work) : State := { s with todo := w }

/-- Change the record of a slot. -/
def State.modify (s : State) (k : Nat) (f : Record → Record) : State := s.withTable (s.table.modify k f)

/-- The burner of a gas station. -/
def State.burner (s : State) (st : Nat) : Burner := s.burners.getD st ⟨0, 0⟩

/-- Slice number within the period (section 5.1). -/
def TimeBase.sliceNumber (t : TimeBase) : Nat := 10 * t.second + t.slice

/-- The start-up load is in progress (R140). -/
def State.loading (s : State) : Bool := s.settings.loader == .loading

end Sys2Proof.Machine
end

