-- ==== Sys2Proof/Machine/Apportion.lean ====
section
/-! DEFINITION. The Apportioner (spec file 06): requests, placement, switching, drops, shed trimming, and the closing and opening of a
period. -/

namespace Sys2Proof.Machine

/-- Element indices UE, LE, RE, GI, GO. -/
def allElements : List Nat := [0, 1, 2, 3, 4]

/-- What the Apportioner holds for an element. -/
def Apportioner.element (a : Apportioner) (e : Nat) : Element := a.elements.getD e (Element.idle 0 0)

/-- Change every element by its index. -/
def Apportioner.mapElements (a : Apportioner) (f : Nat → Element → Element) : Apportioner :=
  { a with elements := a.elements.zipIdx.map (fun p => f p.2 p.1) }

/-- Elements in placement order: ascending rank in force, equal ranks by ascending index (R3). Ranks are 0..7; an element of
any other rank, which no settings item accepts, would stand last. -/
def Apportioner.placementOrder (a : Apportioner) : List Nat :=
  (List.range 8).flatMap (fun r => allElements.filter (fun e => (a.element e).rank == r))
    ++ allElements.filter (fun e => decide (8 ≤ (a.element e).rank))

/-- The element is on in a slice of the plan. -/
def Element.onIn (x : Element) (j : Nat) : Bool := x.on.contains j

/-- Load of a slice: the ratings in force of the elements on in it (6.1). -/
def Apportioner.load (a : Apportioner) (j : Nat) : Nat :=
  ((a.elements.filter (fun x => x.onIn j)).map Element.rating).sum

/-- Drop elements from slice k on: their entries go off, and a relay line that is on goes off at once (R106). -/
def Apportioner.drop (es : List Nat) (k : Nat) (a : Apportioner) : Apportioner :=
  a.mapElements (fun e x =>
    if es.contains e then { x with on := x.on.filter (fun j => decide (j < k)), relay := false } else x)

/-- Count the slice that has ended into the delivered counts (R105). -/
def Apportioner.deliver (j : Nat) (a : Apportioner) : Apportioner :=
  a.mapElements (fun _ x => if x.onIn j then { x with delivered := x.delivered + 1 } else x)

/-- Set each relay line to its element's entry (R104). -/
def Apportioner.switch (k : Nat) (a : Apportioner) : Apportioner :=
  a.mapElements (fun _ x => { x with relay := x.onIn k })

/-! ### Requests and placement -/

/-- The stage that an electric head requests from: current of a RUNNING head, last of an ENDED one with the keep mark (R99). -/
def Table.requestStage? (t : Table) (st : Nat) : Option Stage :=
  match t.headRec? st with
  | none => none
  | some r =>
    match r.state with
    | .running => r.shownStage?
    | .ended => if r.keep then r.shownStage? else none
    | .armed | .queued | .paused | .held => none

/-- The request of an element sampled at an opening boundary (R99, R100, R101). -/
def requestOf (t : Table) (lines : Lines) (e : Nat) : Nat :=
  if e < 3 then
    match t.requestStage? Config.OV with
    | none => 0
    | some g =>
      if (elementSet Config.OV g).contains e && lines.hcall && !(e == 2 && lines.door) then 100 else 0
  else
    match t.requestStage? Config.GR with
    | none => 0
    | some g => if (elementSet Config.GR g).contains e then 20 + 20 * g.level else 0

/-- The slices an element takes: the first fitting ones from slice 0 upward, at most its request (R102). -/
def Apportioner.walk (a : Apportioner) (x : Element) : List Nat :=
  ((List.range Config.periodSlices).filter (fun j => decide (a.load j + x.rating ≤ a.periodBudget))).take x.request

/-- Place one element (R102, R103). -/
def Apportioner.place (a : Apportioner) (e : Nat) : Apportioner :=
  let x := a.element e
  let slices := if a.periodBudget < x.rating then [] else a.walk x
  { a with
    elements := a.elements.set e
      { x with on := slices, grant := slices.length, blocked := decide (0 < x.request) && decide (a.periodBudget < x.rating) } }

/-- Place every request, in placement order, into an empty plan (R102). -/
def Apportioner.placeAll (a : Apportioner) : Apportioner :=
  let cleared := a.mapElements (fun _ x => { x with on := [], grant := 0, blocked := false })
  cleared.placementOrder.foldl Apportioner.place cleared

/-! ### Closing and opening -/

/-- Requested and delivered energy over some elements (R47). -/
def Apportioner.figuresOf (a : Apportioner) (es : List Nat) : Figures :=
  { requested := (es.map (fun e => (a.element e).request * (a.element e).rating)).sum
    delivered := (es.map (fun e => (a.element e).delivered * (a.element e).rating)).sum }

/-- The closed-period figures of an electric station (R97). -/
def Apportioner.figures (a : Apportioner) (st : Nat) : Figures := if st = Config.OV then a.oven else a.grill

/-- Close the ending period: slice 99 is counted and the figures are formed (R97). -/
def Apportioner.close (a : Apportioner) : Apportioner :=
  let b := a.deliver 99
  { b with oven := b.figuresOf (stationElements Config.OV), grill := b.figuresOf (stationElements Config.GR) }

/-- Copy the settings in force (R98 step 1). -/
def Apportioner.copySettings (u : SettingsUnit) (a : Apportioner) : Apportioner :=
  { a.mapElements (fun e x => { x with rating := u.rating e, rank := u.rank e }) with
    budget := u.value Config.budgetId, shedBudget := u.value Config.shedId }

/-- Sample the requests (R98 step 2). -/
def Apportioner.sample (t : Table) (lines : Lines) (a : Apportioner) : Apportioner :=
  a.mapElements (fun e x => { x with request := requestOf t lines e })

/-- Set the period budget and the slice budget of slice 0 (R96, R98 step 3). -/
def Apportioner.setBudgets (shed : Bool) (a : Apportioner) : Apportioner :=
  let p := if shed then min a.budget a.shedBudget else a.budget
  { a with periodBudget := p, sliceBudget := p }

/-- Open a period (R98). -/
def Apportioner.openPeriod (u : SettingsUnit) (t : Table) (lines : Lines) (a : Apportioner) : Apportioner :=
  ((((a.copySettings u).sample t lines).setBudgets lines.shed).placeAll.mapElements
    (fun _ x => { x with delivered := 0 })).switch 0

/-! ### Inside a period -/

/-- The elements trimmed from one slice: from the last in placement order, until the load fits (R112). -/
def trimmed (rating : Nat → Nat) (budget : Nat) : List Nat → Nat → List Nat
  | [], _ => []
  | e :: es, load => if load ≤ budget then [] else e :: trimmed rating budget es (load - rating e)

/-- The elements on in slice j that a trim to the slice budget removes (R112). -/
def Apportioner.trimOf (a : Apportioner) (j : Nat) : List Nat :=
  trimmed (fun e => (a.element e).rating) a.sliceBudget
    (a.placementOrder.reverse.filter (fun e => (a.element e).onIn j)) (a.load j)

/-- SHED seen asserting at slice boundary k: the slice budget falls and slices k to 99 are trimmed (R112). -/
def Apportioner.shed (k : Nat) (a : Apportioner) : Apportioner :=
  let b := { a with sliceBudget := min a.sliceBudget a.shedBudget }
  b.mapElements (fun e x => { x with on := x.on.filter (fun j => !(decide (k ≤ j) && (b.trimOf j).contains e)) })

/-- A line that was low at the boundary before and is high now. -/
def rose (prior : Option Lines) (now : Lines) (line : Lines → Bool) : Bool :=
  (prior.map (fun l => !line l && line now)).getD false

/-- A line that was high at the boundary before and is low now. -/
def fell (prior : Option Lines) (now : Lines) (line : Lines → Bool) : Bool :=
  (prior.map (fun l => line l && !line now)).getD false

/-- HCALL deasserting drops the oven's elements, DOOR opening drops RE (R109). -/
def Apportioner.lineDrops (prior : Option Lines) (now : Lines) (k : Nat) (a : Apportioner) : Apportioner :=
  let b := if fell prior now Lines.hcall then a.drop (stationElements Config.OV) k else a
  if rose prior now Lines.door then b.drop [2] k else b

/-- The Apportioner's steps at slice boundary k inside a period (R104). -/
def Apportioner.sliceStep (prior : Option Lines) (now : Lines) (k : Nat) (a : Apportioner) : Apportioner :=
  let b := (a.deliver (k - 1)).lineDrops prior now k
  (if rose prior now Lines.shed then b.shed k else b).switch k

/-- SOFT RESET: every element dropped from slice k, counts, marks and figures cleared (R115). -/
def Apportioner.softReset (k : Nat) (a : Apportioner) : Apportioner :=
  { (a.drop allElements k).mapElements
      (fun _ x => { x with request := 0, grant := 0, delivered := 0, blocked := false }) with
    oven := ⟨0, 0⟩, grill := ⟨0, 0⟩ }

end Sys2Proof.Machine
end

