-- ==== Sys2Proof/Machine/Flags.lean ====
section
/-! DEFINITION. The alert flags and the annunciator (spec file 07), the state byte of a record (R179), and the output lines. -/

namespace Sys2Proof.Machine

/-! ### Alert kinds and the pending table -/

/-- Number of an alert kind (section 3.6). -/
def AlertKind.num : AlertKind → Nat
  | .flameLost => 0
  | .recordEnd => 1
  | .starved => 2
  | .linkBroken => 3
  | .stageEnd => 4
  | .reminder => 5

/-- The kinds in kind order (R116). -/
def AlertKind.all : List AlertKind := [.flameLost, .recordEnd, .starved, .linkBroken, .stageEnd, .reminder]

/-- The kind of a number, if it lies in 0..5. -/
def AlertKind.ofNum? (n : Nat) : Option AlertKind := AlertKind.all[n]?

/-- The flag mask of a kind. -/
def AlertKind.mask (k : AlertKind) : BitVec 6 := 1#6 <<< k.num

/-- The record's flag of a kind is set (R117). -/
def Record.hasAlert (r : Record) (k : AlertKind) : Bool := r.alerts.getLsbD k.num

/-- Set the record's flag of a kind (R116). -/
def Record.raise (k : AlertKind) (r : Record) : Record := { r with alerts := r.alerts ||| k.mask }

/-- Clear the record's flag of a kind (R131). -/
def Record.clear (k : AlertKind) (r : Record) : Record := { r with alerts := r.alerts &&& ~~~k.mask }

/-- The flag of a slot and kind is set in the pending table. -/
def Table.hasAlert (t : Table) (k : Nat) (kind : AlertKind) : Bool :=
  (t.rec? k).elim false (fun r => r.hasAlert kind)

/-- The pending table, one row per slot (R117). -/
def Table.pendingTable (t : Table) : List (BitVec 6) := t.slots.map (fun o => o.elim 0#6 Record.alerts)

/-- Working priority of a kind (R118). -/
def SettingsUnit.priority (u : SettingsUnit) (k : AlertKind) : Nat := u.value (0x40 + k.num)

/-- The pending alerts of priority 1 or more on the visible stations, by slot and then by kind order (R119). -/
def pendingAlerts (t : Table) (u : SettingsUnit) (visible : Nat → Bool) : List (Nat × AlertKind) :=
  allSlots.flatMap (fun k =>
    match t.rec? k with
    | none => []
    | some r =>
      if visible r.station then
        (AlertKind.all.filter (fun kind => r.hasAlert kind && 1 ≤ u.priority kind)).map (fun kind => (k, kind))
      else [])

/-- Of two alerts in tie-break order, the one of higher priority, the first on a tie (R119). -/
def betterAlert (u : SettingsUnit) (best : Option (Nat × AlertKind)) (a : Nat × AlertKind) : Option (Nat × AlertKind) :=
  match best with
  | none => some a
  | some b => if u.priority b.2 < u.priority a.2 then some a else some b

/-- The best alert over the visible stations (R119). -/
def bestAlert (t : Table) (u : SettingsUnit) (visible : Nat → Bool) : Option (Nat × AlertKind) :=
  (pendingAlerts t u visible).foldl (betterAlert u) none

/-- Stations a port may view (R119). -/
def portViews (u : SettingsUnit) (p : Port) (st : Nat) : Bool :=
  match p with
  | .panel => true
  | .remote => 1 ≤ u.permission st

/-! ### The annunciator -/

/-- The context presents the alert of that slot and kind. -/
def Context.presents (c : Context) (a : Nat × AlertKind) : Bool := c.slot == a.1 && c.kind == a.2

/-- A newly formed context (R120). -/
def Context.form (u : SettingsUnit) (a : Nat × AlertKind) : Context :=
  { slot := a.1, kind := a.2, priority := u.priority a.2, muted := false }

/-- Make a context current: the sound timer and the pattern phase start from 0 (R123, R126, R127). -/
def Annunciator.present (a : Annunciator) (c : Context) : Annunciator :=
  { a with current := some c, timer := 0, phase := 0, fresh := !c.muted, ousted := none }

/-- The current context is sounding. -/
def Annunciator.sounding (a : Annunciator) : Bool := (a.current.map (fun c => !c.muted)).getD false

/-- The timer whose expiry at this boundary a preemption leaves to the preempting context: that of the sounding context it sets
aside, or of one set aside since the latest slice boundary before it (R129; log 33). -/
def Annunciator.oust (a : Annunciator) : Option Nat :=
  if a.sounding && !a.fresh then some (max a.timer (a.ousted.getD 0)) else a.ousted

/-- The stack after pushing a context: the bottom one is dropped when three are saved (R122). -/
def pushContext (stack : List Context) (c : Context) : List Context := c :: stack.take 2

/-- The evaluation of R122 against a best alert. -/
def Annunciator.evaluate (u : SettingsUnit) (best : Option (Nat × AlertKind)) (a : Annunciator) : Annunciator :=
  match best with
  | none => a
  | some b =>
    match a.current with
    | none => a.present (Context.form u b)
    | some c =>
      if c.presents b then a
      else if u.priority b.2 ≤ c.priority then a
      else
        { { a with stack := pushContext (a.stack.filter (fun d => !d.presents b)) c }.present (Context.form u b) with
          ousted := a.oust }

/-- A context stays while its alert is pending and its kind's priority is not 0 (R123, R124, R125). -/
def Context.alive (t : Table) (u : SettingsUnit) (c : Context) : Bool :=
  t.hasAlert c.slot c.kind && 1 ≤ u.priority c.kind

/-- Take the top of the stack as the current context, or none (R123). -/
def Annunciator.pop (a : Annunciator) : Annunciator :=
  match a.stack with
  | c :: rest => { a with stack := rest }.present c
  | [] => { a with current := none, timer := 0, phase := 0, fresh := false, ousted := none }

/-- Remove the contexts of alerts that are cleared or silenced, popping where the current one goes (R123, R124). -/
def Annunciator.prune (t : Table) (u : SettingsUnit) (a : Annunciator) : Annunciator :=
  let kept := { a with stack := a.stack.filter (Context.alive t u) }
  match a.current with
  | none => kept
  | some c => if c.alive t u then kept else kept.pop

/-- The Alert Unit takes one event whole: contexts of cleared alerts go, then one evaluation over every station (R121). -/
def State.settle (s : State) : State :=
  s.withAnn ((s.ann.prune s.table s.settings).evaluate s.settings (bestAlert s.table s.settings (fun _ => true)))

/-- The Alert Unit's part of an event that leads from one state to another: nothing where no flag changed (R116, R131). -/
def settleFrom (before after : State) : State :=
  if after.table.pendingTable = before.table.pendingTable then after else after.settle

/-- Mute the current context (R127, R128). -/
def Annunciator.mute (a : Annunciator) : Annunciator :=
  { a with current := a.current.map (fun c => { c with muted := true }) }

/-- Cycle of the pattern of a captured priority, in slices (R126). -/
def patternCycle (priority : Nat) : Nat := if 12 ≤ priority then 4 else if 6 ≤ priority then 50 else 100

/-- Phases of the pattern in which BUZ is high (R126). -/
def patternHigh (priority : Nat) : List Nat :=
  if 12 ≤ priority then [0, 1] else if 6 ≤ priority then [0, 1, 4, 5, 8, 9] else [0, 1]

/-- The sound timeout in slices (R127). -/
def SettingsUnit.soundSlices (u : SettingsUnit) : Nat := 10 * u.value Config.soundId

/-- The slice boundary brings the sound timer to the timeout (R127): that of the current context, or that of a context which a
preemption at the same boundary set aside, whose expiry the new context takes (R129). -/
def Annunciator.timesOut (u : SettingsUnit) (a : Annunciator) : Bool :=
  a.sounding && ((!a.fresh && decide (u.soundSlices ≤ a.timer + 1))
    || a.ousted.elim false (fun n => decide (u.soundSlices ≤ n + 1)))

/-- The sound timer rises at a slice boundary while the current context is unmuted (R127); a context that started at this boundary
waits for the next (log 17). -/
def Annunciator.count (a : Annunciator) : Annunciator :=
  if a.sounding && !a.fresh then { a with timer := a.timer + 1 } else a

/-- The pattern phase of a sounding context advances at a slice boundary (R126), with the wait of log 17. -/
def Annunciator.advance (a : Annunciator) : Annunciator :=
  match a.current with
  | none => a
  | some c => if c.muted || a.fresh then a else { a with phase := (a.phase + 1) % patternCycle c.priority }

/-- The sound timer and the pattern phase at a slice boundary, with the mute of an expiry (R126, R127, R129). -/
def Annunciator.tick (u : SettingsUnit) (a : Annunciator) : Annunciator :=
  { (if a.timesOut u then a.count.mute else a.count.advance) with ousted := none }

/-! ### The state byte -/

/-- Number of a record state (R179). -/
def RecordState.num : RecordState → Nat
  | .armed => 1
  | .queued => 2
  | .running => 3
  | .paused => 4
  | .held => 5
  | .ended => 6

/-- 1 for a set flag. -/
def flag (b : Bool) : Nat := if b then 1 else 0

/-- The state byte of a record (R179). -/
def Record.stateByte (r : Record) : Nat :=
  r.state.num + 8 * flag r.keep + 16 * flag r.flameOut + 32 * flag r.detached

/-! ### Output lines -/

/-- Outputs are held off: RESETn low, or the start-up load running (R8, R9, R10). -/
def State.outputsHeld (s : State) : Bool := s.held || s.loading

/-- Level of a relay drive line (R9). -/
def State.relayLine (s : State) (e : Nat) : Bool := !s.outputsHeld && (s.app.elements[e]?.map Element.relay).getD false

/-- Duty of a burner level, in percent: round(level x 100 / 9) (R10). -/
def dutyOf (level : Nat) : Nat := (level * 200 + 9) / 18

/-- Duty of a burner level line (R10). -/
def State.levelLine (s : State) (st : Nat) : Nat := if s.outputsHeld then 0 else dutyOf (s.burner st).level

/-- BUZ (R126). -/
def State.buz (s : State) : Bool :=
  !s.held &&
    match s.ann.current with
    | none => false
    | some c => !c.muted && (patternHigh c.priority).contains s.ann.phase

/-- PATTN (R130). -/
def State.pattn (s : State) : Bool := !s.held && !(pendingAlerts s.table s.settings (fun _ => true)).isEmpty

/-- RATTN (R130). -/
def State.rattn (s : State) : Bool := !s.held && !(pendingAlerts s.table s.settings (portViews s.settings .remote)).isEmpty

/-- READY (R162). -/
def State.ready (s : State) : Bool := !s.held && !s.panel.replies.isEmpty

/-- SYNC (R92). -/
def State.sync (s : State) : Bool := !s.held && 0 < s.snap.syncCount

end Sys2Proof.Machine
end

