-- ==== Sys2Proof/Machine/Operands.lean ====
section
/-! DEFINITION. The operand forms: little-endian fields (R179), the fixed-length commands (R180), the CREATE frame and its stage
walk (R181, R182), and the clamps of stage fields (R41, R42, R58). -/

namespace Sys2Proof.Machine

/-! ### Fields -/

/-- The value of a field, least significant byte first (R179). -/
def leValue : List Byte → Nat
  | [] => 0
  | b :: bs => b.toNat + 256 * leValue bs

/-- A field of n bytes, least significant byte first (R179). -/
def leBytes : Nat → Nat → List Byte
  | 0, _ => []
  | n + 1, v => BitVec.ofNat 8 v :: leBytes n (v / 256)

/-- One-byte field. -/
def byteOf (v : Nat) : Byte := BitVec.ofNat 8 v

/-- The field of n bytes at offset i of a parameter list. -/
def field (bytes : List Byte) (i n : Nat) : Nat := leValue ((bytes.drop i).take n)

/-- The signed four-byte field of ADJUST (R179). -/
def signedField (bytes : List Byte) (i : Nat) : Int := (BitVec.ofNat 32 (field bytes i 4)).toInt

/-- Bit n of a number. -/
def bitOf (v n : Nat) : Bool := v.testBit n

/-! ### Clamps -/

/-- A stage time after adding Δ seconds, clamped to 10..863,990 ds (R58). -/
def clampTime (ds : Nat) (delta : Int) : Nat :=
  (max (Config.minStage : Int) (min (Config.maxStage : Int) ((ds : Int) + 10 * delta))).toNat

/-- A setpoint clamped to 30..300 °C and rounded to the nearest 5 °C (R42). -/
def clampSetpoint (v : Nat) : Nat := 5 * ((max 30 (min 300 v) + 2) / 5)

/-- A level clamped to the station's greatest level (R42); the oven has none. -/
def clampLevel (st v : Nat) : Nat :=
  if isGas st then min 9 v else if st = Config.GR then min 4 v else v

/-- A duration in seconds, clamped and held in deciseconds (R41). -/
def clampDuration (seconds : Nat) : Nat := 10 * min Config.maxSeconds seconds

/-! ### Commands -/

/-- Number of parameter bytes of each command of fixed length (R180); CREATE has none in this table. -/
def parameterBytes (code : Nat) : Option Nat :=
  match code with
  | 0x11 | 0x12 | 0x13 | 0x16 | 0x17 | 0x20 | 0x21 | 0x62 => some 1
  | 0x14 => some 5
  | 0x15 => some 3
  | 0x30 | 0x32 | 0x52 | 0x53 | 0x61 => some 0
  | 0x31 | 0x41 | 0x51 | 0x60 => some 2
  | 0x40 => some 3
  | 0x50 => some 6
  | _ => none

/-- The code is one of the twenty-two (R180). -/
def knownCode (code : Nat) : Bool := code == 0x10 || (parameterBytes code).isSome

/-- The code of a command, if it holds one (R141). -/
def codeOf? : List Byte → Option Nat
  | _ :: c :: _ => some c.toNat
  | [_] | [] => none

/-- The tag of a reply to a command: its first byte, 0x00 if it holds none (R135). -/
def tagOf : List Byte → Byte
  | t :: _ => t
  | [] => 0#8

/-- A stage as a CREATE frame carries it (R181). -/
structure RawStage where
  level       : Nat
  seconds     : Nat
  compensated : Bool
  second      : Bool
  setpoint    : Option Nat
  full        : Bool
  deriving DecidableEq, Repr

/-- The stage of a level byte, a stage word and a setpoint (R181). -/
def RawStage.ofWord (level word : Nat) (setpoint : Option Nat) : RawStage :=
  { level := level, seconds := word % 2 ^ 20, compensated := bitOf word 20, second := bitOf word 21
    setpoint := setpoint, full := bitOf word 23 }

/-- The walk over the stages (R182): it must end exactly at the last byte. -/
def walkStages : Nat → List Byte → Option (List RawStage)
  | 0, [] => some []
  | 0, _ :: _ => none
  | n + 1, l :: w0 :: w1 :: w2 :: rest =>
    let word := leValue [w0, w1, w2]
    if bitOf word 22 then
      match rest with
      | p0 :: p1 :: rest' =>
        (walkStages n rest').map (fun gs => RawStage.ofWord l.toNat word (some (leValue [p0, p1])) :: gs)
      | [_] | [] => none
    else (walkStages n rest).map (fun gs => RawStage.ofWord l.toNat word none :: gs)
  | _ + 1, _ => none

/-- The parameters of a CREATE (R181). -/
structure CreateParams where
  station  : Nat
  kind     : Nat
  start    : List Byte
  reminder : Nat
  stages   : List RawStage
  deriving DecidableEq, Repr

/-- Read a CREATE; none where its length does not agree with its fields (R182). -/
def parseCreate (bytes : List Byte) : Option CreateParams :=
  if bytes.length < 10 then none
  else
    (walkStages (field bytes 9 1) (bytes.drop 10)).map (fun gs =>
      { station := field bytes 2 1, kind := field bytes 3 1, start := (bytes.drop 4).take 3
        reminder := field bytes 7 2, stages := gs })

/-- The frame holds exactly the bytes its code requires (R139 step 3, R182). -/
def lengthOk (code : Nat) (bytes : List Byte) : Bool :=
  if code = 0x10 then (parseCreate bytes).isSome
  else
    match parameterBytes code with
    | some n => bytes.length == 2 + n
    | none => false

/-- The stage checks of CREATE (R150). -/
def RawStage.acceptable (st : Nat) (g : RawStage) : Bool :=
  g.level != 0 && g.seconds != 0 && (st != Config.OV || g.level ≤ 6)
    && !(g.compensated && isGas st) && (g.setpoint.isNone || st == Config.OV)

/-- The stage that CREATE stores (R151). -/
def RawStage.stored (st : Nat) (g : RawStage) : Stage :=
  { level := clampLevel st g.level, full := g.full && st == Config.GR, setpoint := g.setpoint.map clampSetpoint
    duration := clampDuration g.seconds, basis := if g.compensated then .compensated else .wall, second := g.second }

/-- The start condition of a CREATE, none where R65 refuses it with BAD_PARAM. -/
def CreateParams.start? (c : CreateParams) : Option StartCondition :=
  match c.kind with
  | 0 => some { kind := .now, count := 0, minute := 0, linked := 0, offset := 0 }
  | 1 => some { kind := .manual, count := 0, minute := 0, linked := 0, offset := 0 }
  | 2 =>
    let seconds := field c.start 0 3
    if seconds = 0 || Config.maxSeconds < seconds then none
    else some { kind := .delay, count := seconds, minute := 0, linked := 0, offset := 0 }
  | 3 =>
    let minute := field c.start 0 2
    if 1439 < minute then none
    else some { kind := .clockTime, count := 0, minute := minute, linked := 0, offset := 0 }
  | 4 =>
    let linked := field c.start 0 1
    let offset := field c.start 1 2
    if linked = 0 || Config.slotCount < linked || 600 < offset then none
    else some { kind := .after, count := 0, minute := 0, linked := linked, offset := offset }
  | _ => none

/-- The checks of CREATE at step 6, the start condition aside (R150). -/
def CreateParams.acceptable (c : CreateParams) : Bool :=
  c.station < 8 && c.reminder ≤ 3600 && 1 ≤ c.stages.length && c.stages.length ≤ 8
    && c.stages.all (RawStage.acceptable c.station)

end Sys2Proof.Machine
end

