-- ==== Sys2Proof/Machine/Layout.lean ====
section
/-! DEFINITION. The layouts that hosts and settings memory see (spec file 11): replies, the QUERY data, snapshot entries, the port
status byte, the settings image. -/

namespace Sys2Proof.Machine

/-- Code of a result (section 3.5). -/
def ResultCode.num : ResultCode → Nat
  | .ok => 0x00
  | .badCommand => 0x01
  | .badFrame => 0x02
  | .badParam => 0x03
  | .noSlot => 0x04
  | .stationFull => 0x05
  | .noRecord => 0x06
  | .wrongState => 0x07
  | .denied => 0x08
  | .chainTooDeep => 0x09
  | .noClock => 0x0A
  | .busy => 0x0B
  | .notReady => 0x0C

/-- The bytes of a reply (R183). -/
def Reply.bytes (r : Reply) : List Byte := r.tag :: byteOf r.code.num :: r.data

/-- A reply with the length byte that is sent before it (R161, R169, R183). -/
def Reply.framed (r : Reply) : List Byte := byteOf r.bytes.length :: r.bytes

/-- Code of a start condition kind (R179). -/
def StartKind.num : StartKind → Nat
  | .now => 0
  | .manual => 1
  | .delay => 2
  | .clockTime => 3
  | .after => 4

/-- Code of an origin (R179). -/
def Port.num : Port → Nat
  | .panel => 0
  | .remote => 1

/-- Code of the loader status (R179). -/
def LoaderStatus.num : LoaderStatus → Nat
  | .loading => 0
  | .absent => 1
  | .blank => 2
  | .loaded => 3

/-- Code of the store status (R179). -/
def StoreStatus.num : StoreStatus → Nat
  | .none => 0
  | .inProgress _ => 1
  | .ok => 2
  | .failed _ => 3

/-- The failed write of the store status, 0 unless FAILED (R183). -/
def StoreStatus.failedWrite : StoreStatus → Nat
  | .failed n => n
  | .none | .inProgress _ | .ok => 0

/-- The no-time value of a three-byte field (R80, R89). -/
abbrev noTime : Nat := 0xFFFFFF

/-! ### Snapshot entries -/

/-- Seconds of a time in deciseconds, rounded up (R89). -/
def ceilSeconds (ds : Nat) : Nat := (ds + 9) / 10

/-- The remaining field of an entry (R89). -/
def Record.shownRemaining (r : Record) (reading : Nat) : Option Nat :=
  match r.state with
  | .armed => r.startCountdown reading
  | .queued => some (ceilSeconds ((r.stageAt? 1).elim 0 Stage.duration))
  | .running | .paused | .held => some (ceilSeconds r.remaining)
  | .ended => some 0

/-- The level field of an entry: bit 7 set for FULL on the grill (R185). -/
def Stage.levelByte (g : Stage) : Nat := g.level + 128 * flag g.full

/-- The entry of a slot's record (R88). -/
def Entry.ofRecord (reading k : Nat) (r : Record) : Entry :=
  { slot := k, station := r.station, stateByte := r.stateByte, stage := r.stage, stages := r.stages.length
    level := (r.shownStage?).elim 0 Stage.levelByte, remaining := r.shownRemaining reading
    total := ceilSeconds r.total, alerts := r.alerts }

/-- All 48 entries, filled from the table (R90). -/
def snapshotOf (t : Table) (reading : Nat) : List Entry :=
  allSlots.map (fun k => (t.rec? k).elim (Entry.empty k) (Entry.ofRecord reading k))

/-- The twelve bytes of an entry (R185). -/
def Entry.bytes (x : Entry) : List Byte :=
  [byteOf x.slot, byteOf x.station, byteOf x.stateByte, byteOf (x.stage + 16 * x.stages), byteOf x.level]
    ++ leBytes 3 (x.remaining.getD noTime) ++ leBytes 3 x.total ++ [x.alerts.zeroExtend 8]

/-- The entry of a slot in the buffer. -/
def SnapshotBuffer.entry (b : SnapshotBuffer) (k : Nat) : Entry := b.entries.getD (k - 1) (Entry.empty k)

/-- A refresh is taken: entries filled, SYNC raised with a count of 5, no refresh deferred any more (R90, R91, R92). -/
def State.takeRefresh (s : State) : State :=
  s.withSnap { entries := snapshotOf s.table s.time.clock, deferred := false, syncCount := 5 }

/-- A READ WINDOW frame is in progress (R91). -/
def State.windowInProgress (s : State) : Bool :=
  match s.panel.frame with
  | .window _ => true
  | .idle | .untyped | .command _ | .fetch _ | .status _ | .unknown => false

/-- A refresh falls due: it is taken, or deferred while a READ WINDOW frame is in progress (R90, R91). -/
def State.refreshDue (s : State) : State :=
  if s.windowInProgress then s.withSnap { s.snap with deferred := true } else s.takeRefresh

/-- The port status byte (R185). -/
def PanelPort.statusByte (p : PanelPort) : Byte :=
  byteOf (128 * flag p.overrun + 9 * p.commands.length + p.replies.length)

/-! ### QUERY -/

/-- The six bytes of a stage in a QUERY reply (R184). -/
def Stage.queryBytes (g : Stage) : List Byte :=
  byteOf g.level
    :: leBytes 3 (g.duration + 2 ^ 20 * flag (g.basis == .compensated) + 2 ^ 21 * flag g.second
          + 2 ^ 22 * flag g.setpoint.isSome + 2 ^ 23 * flag g.full)
    ++ leBytes 2 (g.setpoint.getD 0)

/-- The start countdown field of a QUERY reply (R184). -/
def Record.queryCountdown (r : Record) (reading : Nat) : Nat :=
  if r.state == .armed then (r.startCountdown reading).getD noTime else 0

/-- The 34 bytes of a record (R184). -/
def Record.queryBytes (r : Record) (k reading : Nat) : List Byte :=
  [byteOf k, byteOf r.station, byteOf r.origin.num, byteOf r.stateByte, byteOf r.start.kind.num]
    ++ leBytes 3 r.start.count ++ leBytes 2 r.start.minute ++ [byteOf r.start.linked] ++ leBytes 2 r.start.offset
    ++ leBytes 3 (r.queryCountdown reading) ++ [byteOf r.stage, byteOf r.stages.length]
    ++ leBytes 3 r.remaining ++ leBytes 3 r.total ++ leBytes 2 r.acc ++ [byteOf r.starve]
    ++ [byteOf (flag r.starvedRaised + 2 * flag r.reminderDone)] ++ leBytes 2 (r.reminder.getD 0)
    ++ leBytes 2 r.grace ++ [byteOf r.absent, r.alerts.zeroExtend 8]

/-- The four bytes of an element (R184). -/
def Element.queryBytes (x : Element) : List Byte :=
  [byteOf x.request, byteOf x.grant, byteOf x.delivered, byteOf (flag x.blocked + 2 * flag x.relay)]

/-- The apportioning figures of an electric station (R114, R184). -/
def Apportioner.queryBytes (a : Apportioner) (st : Nat) : List Byte :=
  (stationElements st).flatMap (fun e => (a.element e).queryBytes)
    ++ leBytes 2 a.periodBudget ++ leBytes 2 a.sliceBudget
    ++ leBytes 3 (a.figures st).requested ++ leBytes 3 (a.figures st).delivered

/-- The data of a QUERY reply (R154, R184). -/
def State.queryData (s : State) (k : Nat) (r : Record) : List Byte :=
  r.queryBytes k s.time.clock ++ r.stages.flatMap Stage.queryBytes
    ++ (if isGas r.station then [] else s.app.queryBytes r.station)

/-! ### The settings image -/

/-- The 178 bytes of the image of working values (R177, R186). -/
def imageOf (values : List Nat) : List Byte :=
  [Config.signature, Config.version] ++ leBytes 2 (6 * Config.items.length)
    ++ (Config.items.zip values).flatMap (fun p => leBytes 2 p.1.id ++ leBytes 4 p.2)

/-- Address and data bytes of a write of a store (R177). -/
def storePage (image : List Byte) (n : Nat) : Nat × List Byte :=
  match n with
  | 0 => (0, 0#8 :: (image.drop 1).take 31)
  | 6 => (0, [Config.signature])
  | n => (32 * n, (image.drop (32 * n)).take 32)

/-- The memory link's transfers for a write of a store: write enable, page write, status polling (R174, R177). -/
def storeTransfers (image : List Byte) (n : Nat) (clears : Bool) : List Transfer :=
  [.writeEnable, .pageWrite (storePage image n).1 (storePage image n).2, .polls clears]

end Sys2Proof.Machine
end

