-- ==== Sys2Proof/Machine/Records.lean ====
section
/-! DEFINITION. The shared operations of the Schedule Table, the Record Engine and the Burner Drive on records: following the head
with the burner level, placing due records, promotion, stage and record ends, release, detaching, retirement, flame loss. -/

namespace Sys2Proof.Machine

/-! ### The slice in progress -/

/-- Some share of work is still to be taken at this boundary. -/
def State.awaits (s : State) (w : Work) : Bool := s.todo.contains w

/-- A note of a slot, not a share of work. -/
def isNote : Work → Bool
  | .released _ => true
  | .count _ | .judge _ | .relays | .closePeriod | .openPeriod | .alertTick | .syncTick | .clock | .refresh | .loadEnd => false

/-- The slice from which a drop taken by a command acts: the slice in progress at the Apportioner (R106, R111). Before the
Apportioner has taken a boundary it is the slice that ends there; between a period's closing and the next opening there is
none left (log 25). -/
def State.commandSlice (s : State) : Nat :=
  if s.awaits .closePeriod then 99
  else if s.awaits .openPeriod then Config.periodSlices
  else if s.awaits .relays then s.time.sliceNumber - 1
  else s.time.sliceNumber

/-- The slice from which a drop taken by boundary work acts: the slice that begins there, none at a period boundary (R106, R107). -/
def State.boundarySlice (s : State) : Nat :=
  if s.awaits .openPeriod then Config.periodSlices else s.time.sliceNumber

/-- Drop elements from slice k on (R106). -/
def State.dropElements (s : State) (es : List Nat) (k : Nat) : State := s.withApp (s.app.drop es k)

/-! ### Burner level (R11, R12) -/

/-- The commanded level that a station's head gives (R11). -/
def Table.levelOf (t : Table) (st : Nat) : Nat :=
  match t.headRec? st with
  | none => 0
  | some r =>
    match r.state with
    | .running => (r.shownStage?).elim 0 Stage.level
    | .ended => if r.keep && !r.flameOut then (r.shownStage?).elim 0 Stage.level else 0
    | .armed | .queued | .paused | .held => 0

/-- A grace starts on the record (R12). -/
def Record.startGrace (u : SettingsUnit) (r : Record) : Record :=
  { r with grace := 10 * u.value Config.graceId, absent := 0 }

/-- Find the commanded level of a gas station again and apply it; a grace starts where the level becomes non-zero for a record
it did not come from before (R11, R12). -/
def State.follow (s : State) (st : Nat) : State :=
  if isGas st then
    let old := s.burner st
    let level := s.table.levelOf st
    let k := s.table.head st
    let s' := s.withBurners (s.burners.set st { level := level, source := if level = 0 then 0 else k })
    if level ≠ 0 ∧ (old.level = 0 ∨ old.source ≠ k) then s'.modify k (Record.startGrace s.settings) else s'
  else s

/-! ### Placement and promotion -/

/-- Make the record of a slot RUNNING head of its station, in its first stage (R23, R25). -/
def State.makeHead (s : State) (st k : Nat) : State :=
  ((s.withTable (s.table.setHead st k)).modify k (fun r => { r.spend.beginStage 1 with state := .running })).follow st

/-- Place a record that falls due: head if its station has none, else the tail of the queue (R23). -/
def State.place (s : State) (k : Nat) : State :=
  match s.table.rec? k with
  | none => s
  | some r =>
    if s.table.head r.station = 0 then s.makeHead r.station k
    else
      (s.withTable (s.table.setQueue r.station (s.table.queue r.station ++ [k]))).modify k
        (fun r => { r.spend with state := .queued })

/-- Place several due records, in the order given (R23: ascending slots). -/
def State.placeAll (s : State) (ks : List Nat) : State := ks.foldl State.place s

/-- The head of a station leaves: the first queued record is promoted, or the station has no head (R25). -/
def State.promote (s : State) (st : Nat) : State :=
  match s.table.queue st with
  | [] => (s.withTable (s.table.setHead st 0)).follow st
  | k :: rest => (s.withTable (s.table.setQueue st rest)).makeHead st k

/-- Release the records that wait on slot k: those with offset 0 fall due together, the others count their offset (R75). -/
def State.release (s : State) (k : Nat) : State :=
  let deps := s.table.slotsWhere (fun r => r.waitsOn k)
  let due := s.table.slotsWhere (fun r => r.waitsOn k && r.start.offset == 0)
  (deps.foldl
    (fun s d => s.modify d (fun r => { r with start := { r.start with linked := 0, count := r.start.offset } })) s).placeAll due

/-! ### Stage and record ends -/

/-- Raise an alert of a record: its flag is set (R116). The Alert Unit's evaluation follows at the end of the event. -/
def State.raise (s : State) (k : Nat) (kind : AlertKind) : State := s.modify k (Record.raise kind)

/-- Elements of a station's set before an event that are not in its set after it are dropped from slice j on (R107). -/
def State.dropLeaving (s : State) (st : Nat) (before : List Nat) (j : Nat) : State :=
  s.dropElements (before.filter (fun e => !(s.table.elements st).contains e)) j

/-- The last stage of a record ends (R27, R52): ENDED and RECORD_END, then with OFF the head leaves, then dependents are
released, the head leaving before a dependent of its own station is placed (R75); the elements that are not in the station's set
after all of the event are dropped (R25, R107; log 19). -/
def State.endRecord (s : State) (k : Nat) (r : Record) (j : Nat) : State :=
  let before := s.table.elements r.station
  let keep := (r.stageAt? r.stage).elim false Stage.second
  let ended := (s.modify k (fun r => { r with state := .ended, remaining := 0, keep := keep })).raise k .recordEnd
  let left := if keep then ended.follow r.station else ended.promote r.station
  (left.release k).dropLeaving r.station before j

/-- A stage that is not last ends: the next begins, ALERT raises STAGE_END, the heat point follows (R51). -/
def State.nextStage (s : State) (k : Nat) (r : Record) (j : Nat) : State :=
  let before := s.table.elements r.station
  let begun := s.modify k (fun r => r.beginStage (r.stage + 1))
  let raised := if (r.stageAt? r.stage).elim false Stage.second then begun.raise k .stageEnd else begun
  (raised.follow r.station).dropLeaving r.station before j

/-- The current stage is not the last of the list. -/
def Record.hasNextStage (r : Record) : Bool := decide (r.stage < r.stages.length)

/-- The current stage of a RUNNING record ends; drops act from slice j on (R51, R52). -/
def State.endStage (s : State) (k : Nat) (j : Nat) : State :=
  match s.table.rec? k with
  | none => s
  | some r => if r.hasNextStage then s.nextStage k r j else s.endRecord k r j

/-- The check of a record's reminder (R56). -/
def Record.reminderDue (r : Record) : Bool :=
  r.state == .running && !r.reminderDone && r.reminder.elim false (fun t => decide (r.total ≤ 10 * t))

/-- Raise REMINDER on a record within its threshold (R56). -/
def Record.remind (r : Record) : Record :=
  if r.reminderDue then { r.raise .reminder with reminderDone := true } else r

/-! ### Retirement -/

/-- A record whose link is broken (R77). -/
def Record.detach (r : Record) : Record :=
  { r with start := { r.start with kind := .manual, count := 0, linked := 0 }, detached := true }.raise .linkBroken

/-- Detach the records waiting on slot k, but for those exempt (R29 step 2, R37, R39, R77). -/
def State.detachFrom (s : State) (k : Nat) (exempt : List Nat) : State :=
  ((s.table.slotsWhere (fun r => r.waitsOn k)).filter (fun d => !exempt.contains d)).foldl
    (fun s d => s.modify d Record.detach) s

/-- No note is kept of a slot whose record is gone: its next record's count is its own. -/
def State.forget (s : State) (k : Nat) : State := s.withTodo (s.todo.filter (fun w => w != .released k))

/-- Retire the record of a slot (R29, R30): heat points released, dependents detached, slot EMPTY with its flags, queue promoted
unless the whole station is being emptied (R39). The Alert Unit's part follows at the end of the event. -/
def State.retire (s : State) (k : Nat) (promotes : Bool) (exempt : List Nat) : State :=
  match s.table.rec? k with
  | none => s
  | some r =>
    let st := r.station
    let wasHead := s.table.head st == k
    let dropped := if wasHead then s.dropElements (stationElements st) s.commandSlice else s
    let detached := dropped.detachFrom k exempt
    let queued := detached.withTable (detached.table.setQueue st ((detached.table.queue st).filter (fun q => q != k)))
    let removed := (queued.withTable (queued.table.put k none)).forget k
    if wasHead then
      (if promotes then removed.promote st else (removed.withTable (removed.table.setHead st 0)).follow st)
    else removed

/-- Retire a set of records in ascending slot order; a record waiting on another of the set is not detached (R37, R39). -/
def State.retireAll (s : State) (ks : List Nat) (promotes : Bool) : State :=
  ks.foldl (fun s k => s.retire k promotes ks) s

/-- Set a station's remote permission; a lowering from FULL retires its REMOTE-origin ARMED and QUEUED records (R36, R149). -/
def State.setPermission (s : State) (st v : Nat) : State :=
  let s' := s.withSettings (s.settings.withValue (0x50 + st) v)
  if s.settings.permission st = 2 ∧ v ≠ 2 then
    settleFrom s
      (s'.retireAll
        (s.table.slotsWhere (fun r =>
          r.station == st && r.origin == .remote && (r.state == .armed || r.state == .queued))) true)
  else s'

/-! ### Flame judgement (R13, R14) -/

/-- Flame loss on a head record: HELD or flame-out (R14). -/
def Record.loseFlame (r : Record) : Record :=
  { r with
    state := if r.state == .running then .held else r.state
    flameOut := if r.state == .running then r.flameOut else true
    grace := 0, absent := 5 }

/-- The judgement of a lit station's head finds flame loss: no grace left and the fifth absent sample (R13). -/
def Record.flameLostAt (r : Record) (present : Bool) : Bool := r.grace == 0 && !present && decide (5 ≤ r.absent + 1)

/-- The judgement where it finds no loss: the grace falls, or the sample is counted (R13). -/
def Record.judged (r : Record) (present : Bool) : Record :=
  if 0 < r.grace then { r with grace := r.grace - 1 }
  else { r with absent := if present then 0 else r.absent + 1 }

/-- The head record that a judgement of a gas station looks at: none while its commanded level is 0 (R7, R13). -/
def State.judgedHead? (s : State) (st : Nat) : Option Record :=
  if (s.burner st).level = 0 then none else s.table.headRec? st

/-- A judgement of the station now would be a flame loss. -/
def State.losesFlame (s : State) (st : Nat) : Bool :=
  (s.judgedHead? st).elim false (fun r => r.flameLostAt (s.time.lines.flm.getLsbD st))

/-- The Burner Drive judges a gas station (R13, R14). -/
def State.judgeStation (s : State) (st : Nat) : State :=
  match s.judgedHead? st with
  | none => s
  | some r =>
    let k := s.table.head st
    let present := s.time.lines.flm.getLsbD st
    if r.flameLostAt present then
      settleFrom s (((s.modify k Record.loseFlame).raise k .flameLost).follow st)
    else s.modify k (fun r => r.judged present)

end Sys2Proof.Machine
end

