-- ==== Sys2Proof/Machine/Command.lean ====
section
/-! DEFINITION. The Command Unit (spec file 08): the arbiter, the first checks of R139, the reply, the access checks, and the two
commands that carry no known code: BAD_COMMAND and COMMAND_WITHOUT_CODE. -/

namespace Sys2Proof.Machine

/-! ### The arbiter (R137) -/

/-- Commands waiting on a port. -/
def State.commands (s : State) : Port → List (List Byte)
  | .panel => s.panel.commands
  | .remote => s.remote.commands

/-- A port is eligible: a command waits and a reply has room (R137). -/
def State.eligible (s : State) : Port → Bool
  | .panel => !s.panel.commands.isEmpty && decide (s.panel.replies.length < Config.panelCapacity)
  | .remote => !s.remote.commands.isEmpty && decide (s.remote.replies.length < Config.remoteCapacity)

/-- The other port. -/
def Port.other : Port → Port
  | .panel => .remote
  | .remote => .panel

/-- The port the arbiter chooses (R137). -/
def State.chosenPort (s : State) : Option Port :=
  if s.eligible s.lastServed.other then some s.lastServed.other
  else if s.eligible s.lastServed then some s.lastServed
  else none

/-- The command the arbiter takes: the oldest of the chosen port (R137). -/
def State.chosen (s : State) : Option (Port × List Byte) :=
  match s.chosenPort with
  | none => none
  | some p => (s.commands p).head?.map (fun c => (p, c))

/-- The chosen command leaves its queue, and its port is the last served (R137). -/
def State.takeCommand (s : State) (p : Port) : State :=
  match p with
  | .panel => { s.withPanel { s.panel with commands := s.panel.commands.tail } with lastServed := .panel }
  | .remote => { s.withRemote { s.remote with commands := s.remote.commands.tail } with lastServed := .remote }

/-- A reply enters the tail of a port's reply queue (R135). -/
def State.reply (s : State) (p : Port) (r : Reply) : State :=
  match p with
  | .panel => s.withPanel { s.panel with replies := s.panel.replies ++ [r] }
  | .remote => s.withRemote { s.remote with replies := s.remote.replies ++ [r] }

/-- A command is no boundary work: a context that it made current advances at the next boundary work of the Alert Unit
(log 17). -/
def State.afterCommand (before after : State) : State :=
  after.withAnn { after.ann with fresh := before.ann.fresh && after.ann.current == before.ann.current }

/-- The work of a command: the state it leads to and the data of its OK reply, or the code that refuses it (R139). -/
abbrev Verdict := Except ResultCode (State × List Byte)

/-- The reply and the state that a verdict gives; a refused command changes no state (R135, R139). -/
def State.conclude (s : State) (p : Port) (tag : Byte) : Verdict → State
  | .error c => s.reply p { tag := tag, code := c, data := [] }
  | .ok (s', data) => (s.afterCommand s').reply p { tag := tag, code := .ok, data := data }

/-- Steps 1 and 3 of R139 before a command's own work; the parameters are the bytes after the code. -/
def State.judge (s : State) (code : Nat) (bytes : List Byte) (work : Verdict) : Verdict :=
  if s.loading then .error .notReady
  else if !lengthOk code bytes then .error .badFrame
  else work

/-- The Command Unit takes the arbiter's choice, if it is a command of this code, and executes it as one event (R136). -/
def execute (code : Nat) (body : Port → List Byte → State → Verdict) (s : State) : Host.Outcome State Fault Refusal :=
  .next (match s.chosen with
    | none => s
    | some (p, bytes) =>
      if codeOf? bytes = some code then
        let t := s.takeCommand p
        t.conclude p (tagOf bytes) (t.judge code bytes (body p bytes t))
      else s)

/-- BAD_COMMAND (R141): a code that is not one of the twenty-two. -/
def execBadCommand (s : State) : Host.Outcome State Fault Refusal :=
  .next (match s.chosen with
    | none => s
    | some (p, bytes) =>
      match codeOf? bytes with
      | none => s
      | some c =>
        if knownCode c then s
        else
          let t := s.takeCommand p
          t.conclude p (tagOf bytes) (.error (if t.loading then .notReady else .badCommand)))

/-- COMMAND_WITHOUT_CODE (R141): a command of 0 or 1 bytes. -/
def execCommandWithoutCode (s : State) : Host.Outcome State Fault Refusal :=
  .next (match s.chosen with
    | none => s
    | some (p, bytes) =>
      match codeOf? bytes with
      | some _ => s
      | none =>
        let t := s.takeCommand p
        t.conclude p (tagOf bytes) (.error (if t.loading then .notReady else .badFrame)))

/-! ### Access (R143, R145, R148) -/

/-- The port has FULL access to a station (R145). -/
def State.fullAccess (s : State) (p : Port) (st : Nat) : Bool :=
  match p with
  | .panel => true
  | .remote => s.settings.permission st == 2

/-- Step 4: a command that may not be sent on the remote port (R148). -/
def panelOnly (p : Port) (work : Verdict) : Verdict :=
  match p with
  | .panel => work
  | .remote => .error .denied

/-- Steps 6 and 7 for a command that names a slot (R143): range, then the record if the port may see it. -/
def State.withRecord (s : State) (p : Port) (k : Nat) (work : Record → Verdict) : Verdict :=
  if k = 0 ∨ Config.slotCount < k then .error .badParam
  else
    match s.table.rec? k with
    | none => .error .noRecord
    | some r => if portViews s.settings p r.station then work r else .error .noRecord

/-- Step 8: FULL access to a station, and the gas limit of the command (R145, R146). -/
def State.allowed (s : State) (p : Port) (st : Nat) (gasLimit : Bool) (work : Verdict) : Verdict :=
  if !s.fullAccess p st then .error .denied
  else if p == .remote && isGas st && gasLimit then .error .denied
  else work

/-- Step 9: the record's state (R139). -/
def inState (ok : Bool) (work : Verdict) : Verdict := if ok then work else .error .wrongState

/-- Step 10: the gas start guard (R147). -/
def guarded (p : Port) (starts : Bool) (work : Verdict) : Verdict :=
  if p == .remote && starts then .error .denied else work

/-- The record's state byte as the state now has it. -/
def State.stateByteOf (s : State) (k : Nat) : List Byte := [byteOf ((s.table.rec? k).elim 0 Record.stateByte)]

end Sys2Proof.Machine
end

