-- ==== Sys2Proof/Machine/AlertCommands.lean ====
section
/-! DEFINITION. The alert commands (section 7.7): NEXT ALERT, ACK, SILENCE. -/

namespace Sys2Proof.Machine

/-! ### NEXT ALERT (R133) -/

/-- Station of a slot's record, if it has one. -/
def Table.stationOf? (t : Table) (k : Nat) : Option Nat := (t.rec? k).map Record.station

/-- The best alert fields of the reply (R133, R183). -/
def State.bestBytes (s : State) (p : Port) : List Byte :=
  match bestAlert s.table s.settings (portViews s.settings p) with
  | none => [0#8, 0#8, 0#8, 0#8]
  | some a =>
    [byteOf a.1, byteOf ((s.table.stationOf? a.1).getD 0), byteOf a.2.num, byteOf (s.settings.priority a.2)]

/-- The current context as the port may see it: none for the remote port where its station's permission is NONE (R133). -/
def State.visibleContext (s : State) (p : Port) : Option Context :=
  s.ann.current.filter (fun c => ((s.table.stationOf? c.slot).map (portViews s.settings p)).getD (p == .panel))

/-- The context fields of the reply (R133, R183). -/
def State.contextBytes (s : State) (p : Port) : List Byte :=
  match s.visibleContext p with
  | none => [0#8, 0#8, 0#8, 0#8]
  | some c => [byteOf c.slot, byteOf c.kind.num, byteOf c.priority, byteOf (flag c.muted)]

/-- The work of NEXT ALERT (R133, R155). -/
def nextAlertBody (p : Port) (_bytes : List Byte) (s : State) : Verdict :=
  .ok (s, s.bestBytes p ++ leBytes 2 (pendingAlerts s.table s.settings (portViews s.settings p)).length
    ++ s.contextBytes p ++ [byteOf s.ann.stack.length])

/-- NEXT ALERT (R133, R155). -/
def execNextAlert (s : State) : Host.Outcome State Fault Refusal := execute 0x30 nextAlertBody s

/-! ### ACK (R131) -/

/-- The state after an accepted ACK, before the Alert Unit's part: the flag cleared, or the record retired (R31, R131). -/
def State.acknowledge (s : State) (k : Nat) (kind : AlertKind) (r : Record) : State :=
  if kind == .recordEnd && r.state == .ended && !r.keep then s.retire k true []
  else s.modify k (Record.clear kind)

/-- The work of ACK (R131, R155). -/
def ackBody (p : Port) (bytes : List Byte) (s : State) : Verdict :=
  let k := field bytes 2 1
  match AlertKind.ofNum? (field bytes 3 1) with
  | none => .error .badParam
  | some kind =>
    s.withRecord p k fun r =>
      s.allowed p r.station false <|
        .ok (settleFrom s (s.acknowledge k kind r), [])

/-- ACK (R131, R155). -/
def execAck (s : State) : Host.Outcome State Fault Refusal := execute 0x31 ackBody s

/-! ### SILENCE (R128) -/

/-- The remote port may silence the current context: its station's permission is FULL, or there is no context (R128). -/
def State.maySilence (s : State) (p : Port) : Bool :=
  match s.ann.current with
  | none => true
  | some c => p == .panel || ((s.table.stationOf? c.slot).map (s.fullAccess p)).getD false

/-- The context named by the reply (R128, R183). -/
def State.silencedBytes (s : State) : List Byte :=
  match s.ann.current with
  | none => [0#8, 0#8]
  | some c => [byteOf c.slot, byteOf c.kind.num]

/-- The work of SILENCE (R128, R155). -/
def silenceBody (p : Port) (_bytes : List Byte) (s : State) : Verdict :=
  if s.maySilence p then .ok (s.withAnn s.ann.mute, s.silencedBytes) else .error .denied

/-- SILENCE (R128, R155). -/
def execSilence (s : State) : Host.Outcome State Fault Refusal := execute 0x32 silenceBody s

end Sys2Proof.Machine
end

