-- ==== Sys2Proof/Machine/Boundary.lean ====
section
/-! DEFINITION. The boundaries of the Time Base (spec file 05) and what every block does at them: the shares of work, the order in
which they are taken, and the commands SLICE_BOUNDARY, SECOND_BOUNDARY, PERIOD_BOUNDARY, SYNC_FALL, DELAY_DUE, OFFSET_DUE,
STAGE_END, RECORD_END, FLAME_LOSS, SOUND_TIMEOUT, LOAD_ENTRY, LOAD_END. -/

namespace Sys2Proof.Machine

/-! ### Countdown of one record (R45 to R56) -/

/-- The boundary just made is a period boundary (R82). -/
def TimeBase.atPeriod (t : TimeBase) : Bool := t.sliceNumber == 0

/-- The boundary just made is a second boundary (R82). -/
def TimeBase.atSecond (t : TimeBase) : Bool := t.slice == 0

/-- A PARTIAL count rises at a slice boundary (R46). -/
def Record.riseStanding (r : Record) : Record :=
  match r.standing with
  | .part n => if isGas r.station then r else { r with standing := .part (n + 1) }
  | .whole | .void => r

/-- A period was starved: R above 0 and 2G below R (R54). -/
def Figures.starved (f : Figures) : Bool := decide (0 < f.requested) && decide (2 * f.delivered < f.requested)

/-- Starvation count of a WHOLE electric record and its STARVED raise (R54, R55). -/
def Record.countStarvation (limit : Nat) (f : Figures) (r : Record) : Record :=
  if r.standing == .whole then
    let n := if f.starved then min 60 (r.starve + 1) else 0
    if limit ≤ n ∧ r.starvedRaised = false then { r.raise .starved with starve := n, starvedRaised := true }
    else { r with starve := n }
  else r

/-- The credit of a COMPENSATED stage, in thousandths of a decisecond; none for VOID (R48). -/
def creditOf (f : Figures) : Standing → Option Nat
  | .void => none
  | .part n => some (1000 * n)
  | .whole => some (if f.requested = 0 then 100000 else 100000 * f.delivered / f.requested)

/-- Apply a credit through the accumulator (R49). -/
def Record.applyCredit (c : Nat) (r : Record) : Record :=
  { r with acc := (r.acc + c) % 1000, remaining := r.remaining - (r.acc + c) / 1000 }

/-- The loss of time of a record at a boundary, and whether the boundary took time from it or credited it (R45, R48). -/
def Record.loseTime (period : Bool) (f : Figures) (r : Record) : Record × Bool :=
  match (r.stageAt? r.stage).map Stage.basis with
  | some .wall => ({ r with remaining := r.remaining - 1 }, true)
  | some .compensated =>
    if period then
      match creditOf f r.standing with
      | some c => (r.applyCredit c, true)
      | none => (r, false)
    else (r, false)
  | none => (r, false)

/-- Steps 1 to 3 of R50 for a RUNNING record, and whether time was taken or credited. -/
def State.counted (s : State) (r : Record) : Record × Bool :=
  let period := s.time.atPeriod && !isGas r.station
  let f := s.app.figures r.station
  let r1 := r.riseStanding
  let r2 := if period then r1.countStarvation (s.settings.value Config.starvationId) f else r1
  r2.loseTime period f

/-- The record's stage runs out at this boundary. -/
def State.runsOut (s : State) (r : Record) : Bool :=
  r.state == .running && (s.counted r).2 && (s.counted r).1.remaining == 0

/-- Slots whose record satisfies p in the second table and did not in the first. -/
def Table.newly (before after : Table) (p : Record → Bool) : List Nat :=
  (after.slotsWhere p).filter (fun k => !(before.rec? k).elim false p)

/-- What boundary work starts waits for the next boundary: a record that entered RUNNING in it is not counted at this one (R43), an
offset count that began in it does not fall at this one (R76). -/
def State.leaveStarted (before after : State) : State :=
  let begun := (before.table.newly after.table (fun r => r.state == .running)).map Work.count
  let released := (before.table.newly after.table Record.countsStart).map Work.released
  after.withTodo (after.todo.filter (fun w => !begun.contains w) ++ (if after.awaits .clock then released else []))

/-- The Record Engine's work on one record at a boundary, taken whole (R50, R121). -/
def State.countRecord (s : State) (k : Nat) : State :=
  match s.table.rec? k with
  | none => s
  | some r =>
    if r.state == .running then
      let p := s.counted r
      let written := s.withTable (s.table.put k (some p.1))
      let ended := if p.2 && p.1.remaining == 0 then written.leaveStarted (written.endStage k s.boundarySlice) else written
      settleFrom s (if p.2 then ended.modify k Record.remind else ended)
    else s

/-! ### Clock and start conditions at a second boundary (R68, R69, R76, R85) -/

/-- The reading that the clock advances to (R85). -/
def TimeBase.nextReading (t : TimeBase) : Nat := (t.clock + 1) % Config.daySeconds

/-- The start condition of slot k counts at this second boundary: a DELAY, or an offset that did not begin at it (R68, R76). -/
def State.startCounts (s : State) (k : Nat) : Bool :=
  !s.awaits (.released k) && (s.table.rec? k).elim false Record.countsStart

/-- The record of slot k falls due at this second boundary: its count comes to 0, or the clock to its due instant (R68, R69, R76). -/
def State.startDue (s : State) (k : Nat) : Bool :=
  (s.table.rec? k).elim false (fun r =>
    (s.startCounts k && decide (r.start.count ≤ 1)) || (r.waitsClock && r.start.minute * 60 == s.time.nextReading))

/-- A start condition's count falls by 1 (R68). -/
def Record.countDown (r : Record) : Record := { r with start := { r.start with count := r.start.count - 1 } }

/-- The clock advances, the start counts fall, and every record that this second boundary brings due is placed, all at one event, in
ascending slot order (R23, R68, R69, R76, R85). -/
def State.advanceClock (s : State) : State :=
  let counted := (allSlots.filter s.startCounts).foldl (fun s k => s.modify k Record.countDown) s
  let placed := s.leaveStarted (counted.placeAll (allSlots.filter s.startDue))
  (placed.withTime { s.time with clock := s.time.nextReading }).withTodo (placed.todo.filter (fun w => !isNote w))

/-! ### The start-up load (R176) -/

/-- Apply one entry of the image (R176). -/
def SettingsUnit.applyEntry (u : SettingsUnit) (id v : Nat) : SettingsUnit :=
  match itemAt id with
  | none => { u with skipped := u.skipped + 1 }
  | some (i, it) =>
    if itemAccepts it v then { u with values := u.values.set i v, applied := u.applied + 1 }
    else { u with rejected := u.rejected + 1 }

/-- Read and apply the next entry of the image, if one is left (R175, R176). -/
def loadNext (m : List Host.Cell) (u : SettingsUnit) : SettingsUnit :=
  if u.entriesRead < u.entryCount then
    let a := 4 + 6 * u.entriesRead
    { u.applyEntry (leValue (Memory.readBytes m a 2)) (leValue (Memory.readBytes m (a + 2) 4)) with
      entriesRead := u.entriesRead + 1 }
  else u

/-- Read n more entries. -/
def loadEntries (m : List Host.Cell) : Nat → SettingsUnit → SettingsUnit
  | 0, u => u
  | n + 1, u => loadEntries m n (loadNext m u)

/-- The memory link's transfers for n entries from the k-th on: one data read of six bytes each (R174, R175; log 34). -/
def entryReads (m : List Host.Cell) (k n : Nat) : List Transfer :=
  (List.range n).map (fun i => Transfer.readData m (4 + 6 * (k + i)) 6)

/-- The end of the load (R176): the reading is complete, Bs is brought to B, the loader status is final. -/
def SettingsUnit.finishLoad (m : List Host.Cell) (u : SettingsUnit) : SettingsUnit :=
  let v := loadEntries m (u.entryCount - u.entriesRead) u
  { v.withValue Config.shedId (min (v.value Config.shedId) (v.value Config.budgetId)) with loader := v.finding }

/-! ### The shares of work -/

/-- The standing of an electric head as a period opens (R46). -/
def Record.openStanding (r : Record) : Record :=
  match r.state with
  | .running => { r with standing := .whole }
  | .paused => { r with standing := .void }
  | .armed | .queued | .held | .ended => r

/-- The opening of a period: standings, then the Apportioner's opening (R46, R50 step 6, R98). -/
def State.openPeriod (s : State) : State :=
  let s' := (s.modify (s.table.head Config.OV) Record.openStanding).modify (s.table.head Config.GR) Record.openStanding
  s'.withApp (s'.app.openPeriod s'.settings s'.table s'.time.lines)

/-- The Alert Unit at a slice boundary; an expiry of the sound timer is an event of its own (R121, R126, R127). -/
def State.alertTick (s : State) : State :=
  let s' := s.withAnn (s.ann.tick s.settings)
  if s.ann.timesOut s.settings then s'.settle else s'

/-- The count towards the fall of SYNC (R92). -/
def SnapshotBuffer.tick (b : SnapshotBuffer) : SnapshotBuffer := { b with syncCount := b.syncCount - 1 }

/-- The end of the start-up load, with the reads that were left (R176). -/
def State.endLoad (s : State) : State :=
  (s.withSettings (s.settings.finishLoad s.memory)).withLink
    (entryReads s.memory s.settings.entriesRead (s.settings.entryCount - s.settings.entriesRead))

/-- Do one share of work, whatever is left of the boundary. -/
def State.perform (s : State) : Work → State
  | .count k => s.countRecord k
  | .judge st => s.judgeStation st
  | .relays => s.withApp (s.app.sliceStep s.time.prior s.time.lines s.time.sliceNumber)
  | .closePeriod => s.withApp s.app.close
  | .openPeriod => s.openPeriod
  | .alertTick => s.alertTick
  | .syncTick => s.withSnap s.snap.tick
  | .clock => s.advanceClock
  | .released _ => s
  | .refresh => s.refreshDue
  | .loadEnd => s.endLoad

/-- Take one share of work if it is still to be taken. -/
def State.takeOne (s : State) (w : Work) : State :=
  if s.awaits w then (s.withTodo (s.todo.filter (fun v => v != w))).perform w else s

/-- Take shares of work one after another, those that are still to be taken. -/
def State.takeEach (s : State) (ws : List Work) : State := ws.foldl State.takeOne s

/-- The closing that stands before an electric record's countdown has been taken (R50). -/
def State.readyToCount (s : State) (k : Nat) : State :=
  if (s.table.rec? k).elim false (fun r => !isGas r.station) then s.takeOne .closePeriod else s

/-- The Record Engine's shares of a boundary: the countdown of each slot, and the start conditions with the clock (R84). -/
def engineWork : List Work := allSlots.map Work.count ++ [.clock]

/-- What is left of the Record Engine's work is taken, the closing of a period before it (R50). -/
def State.takeEngine (s : State) : State := (s.takeOne .closePeriod).takeEach engineWork

/-- Take a share of work with what the rules put before it: the closing of the period before an electric record's credit (R50), all of
the Record Engine's work before the opening of a period (R98), and before a refresh the SYNC count (R92; log 21) and, where any of
the Record Engine's work has been taken, the rest of it (R90: the refresh comes before all the counting or after all of it). -/
def State.take (s : State) (w : Work) : State :=
  if s.awaits w then
    match w with
    | .count k => (s.readyToCount k).takeOne (.count k)
    | .openPeriod => s.takeEngine.takeOne .openPeriod
    | .refresh => ((if engineWork.all s.awaits then s else s.takeEngine).takeOne .syncTick).takeOne .refresh
    | .released _ => s
    | .judge _ | .relays | .closePeriod | .alertTick | .syncTick | .clock | .loadEnd => s.takeOne w
  else s

/-- The order in which the shares of a boundary are taken where the command does not say (log 3). -/
def defaultOrder : List Work :=
  [.loadEnd, .closePeriod, .relays] ++ engineWork ++ [.openPeriod]
    ++ (List.range 6).map Work.judge ++ [.alertTick, .syncTick, .refresh]

/-- Take what is left of a boundary. -/
def State.finishBoundary (s : State) : State :=
  if s.todo.isEmpty then s else defaultOrder.foldl State.take s

/-! ### The Time Base's part (R4, R82) -/

/-- The counters and the sampling of a slice boundary (R4, R82). -/
def TimeBase.boundary (now : Lines) (t : TimeBase) : TimeBase :=
  { t with
    cycle := 0
    slice := if t.slice + 1 < 10 then t.slice + 1 else 0
    second := if t.slice + 1 < 10 then t.second else if t.second + 1 < 10 then t.second + 1 else 0
    prior := if t.sampled then some t.lines else none
    lines := now
    sampled := true }

/-- The work that a boundary brings to the blocks (R84). -/
def State.agenda (s : State) : List Work :=
  (if s.loading then [Work.loadEnd] else [])
    ++ (if s.time.atPeriod then [.closePeriod, .openPeriod] else [.relays])
    ++ allSlots.map Work.count ++ (if s.time.atSecond then [.clock] else [])
    ++ (List.range 6).map Work.judge ++ [.alertTick, .syncTick]
    ++ (if s.time.atSecond then [.refresh] else [])

/-- A slice boundary is made: counters, sampling, and the work of the boundary set out (R4, R82, R84). -/
def State.makeBoundary (s : State) (now : Lines) : State :=
  let s' := (s.withTime (s.time.boundary now)).withAnn { s.ann with fresh := false, ousted := none }
  s'.withTodo s'.agenda

/-- Length of the slice in progress in crystal cycles (R82). -/
def TimeBase.sliceLength (t : TimeBase) : Nat := if t.slice % 5 = 4 then 3276 else 3277

/-- The next crystal cycle completes the slice in progress (R82). -/
def TimeBase.completing (t : TimeBase) : Bool := decide (t.sliceLength ≤ t.cycle + 1)

/-- A boundary is taken (R84): what is left of the boundary before is taken; the boundary is made; the work named first is taken in
that order, then all other work but what is named to be left to later events. -/
def State.takeBoundary (s : State) (lines : Lines) (first later : List Work) : State :=
  let made := s.finishBoundary.makeBoundary lines
  let taken := first.foldl State.take made
  (defaultOrder.filter (fun w => !later.contains w)).foldl State.take taken

/-- One crystal cycle (R82): it is counted, and the cycle that completes the slice makes the boundary. -/
def State.crystalCycle (s : State) (lines : Lines) (first later : List Work) : State :=
  if s.held then s
  else if s.time.completing then s.takeBoundary lines first later
  else s.withTime { s.time with cycle := s.time.cycle + 1 }

/-- A crystal cycle that no event tells of: the input lines stand as they were sampled last (log 30). -/
def State.idleCycle (s : State) : State := s.crystalCycle s.time.lines [] []

/-- The crystal cycles of the slice in progress pass, but for the one that completes it (R82; log 30). -/
def State.toLastCycle (s : State) : State :=
  if s.held then s else s.withTime { s.time with cycle := s.time.sliceLength - 1 }

/-! ### Meanings -/

/-- SLICE_BOUNDARY (R82, R84): the crystal cycles left of the slice pass, and the one that completes it makes the boundary. -/
def execSliceBoundary (lines : Lines) (first later : List Work) (s : State) : Host.Outcome State Fault Refusal :=
  .next (s.toLastCycle.crystalCycle lines first later)

/-- SECOND_BOUNDARY (R84): the second boundary's work not yet taken: clock and start conditions, then the refresh. -/
def execSecondBoundary (s : State) : Host.Outcome State Fault Refusal :=
  .next ((s.take .clock).take .refresh)

/-- PERIOD_BOUNDARY (R97, R98): the period is closed, the Record Engine's work is taken, the new period is opened. -/
def execPeriodBoundary (s : State) : Host.Outcome State Fault Refusal := .next (s.take .openPeriod)

/-- SYNC_FALL (R92): the slice count reaches 0. -/
def execSyncFall (s : State) : Host.Outcome State Fault Refusal :=
  .next (if s.snap.syncCount = 1 then s.take .syncTick else s)

/-- The second boundary still to be taken makes slot k fall due as a record of that kind whose count comes to 0. -/
def State.fallsDue (s : State) (k : Nat) (kind : StartKind) : Bool :=
  s.awaits .clock && s.startCounts k
    && (s.table.rec? k).elim false (fun r => r.start.kind == kind && decide (r.start.count ≤ 1))

/-- DELAY_DUE (R68): with all that falls due at the same event. -/
def execDelayDue (k : Nat) (s : State) : Host.Outcome State Fault Refusal :=
  .next (if s.fallsDue k .delay then s.take .clock else s)

/-- OFFSET_DUE (R76): with all that falls due at the same event. -/
def execOffsetDue (k : Nat) (s : State) : Host.Outcome State Fault Refusal :=
  .next (if s.fallsDue k .after then s.take .clock else s)

/-- The current stage of slot k runs out at this boundary, with or without a next stage. -/
def State.stageRunsOut (s : State) (k : Nat) (hasNext : Bool) : Bool :=
  s.awaits (.count k)
    && (s.table.rec? k).elim false (fun r => (s.readyToCount k).runsOut r && r.hasNextStage == hasNext)

/-- STAGE_END (R51): the countdown that brings a stage that is not last to 0. -/
def execStageEnd (k : Nat) (s : State) : Host.Outcome State Fault Refusal :=
  .next (if s.stageRunsOut k true then s.take (.count k) else s)

/-- RECORD_END (R52): the countdown that brings the last stage to 0. -/
def execRecordEnd (k : Nat) (s : State) : Host.Outcome State Fault Refusal :=
  .next (if s.stageRunsOut k false then s.take (.count k) else s)

/-- FLAME_LOSS (R14): the judgement that finds the fifth absent sample. -/
def execFlameLoss (st : Nat) (s : State) : Host.Outcome State Fault Refusal :=
  .next (if s.losesFlame st then s.take (.judge st) else s)

/-- SOUND_TIMEOUT (R127). -/
def execSoundTimeout (s : State) : Host.Outcome State Fault Refusal :=
  .next (if s.ann.timesOut s.settings then s.take .alertTick else s)

/-- LOAD_ENTRY (R176). -/
def execLoadEntry (s : State) : Host.Outcome State Fault Refusal :=
  .next (if s.held || !s.loading || decide (s.settings.entryCount ≤ s.settings.entriesRead) then s
    else
      (s.withSettings (loadNext s.memory s.settings)).withLink (entryReads s.memory s.settings.entriesRead 1))

/-- LOAD_END (R176). -/
def execLoadEnd (s : State) : Host.Outcome State Fault Refusal := .next (s.take .loadEnd)

end Sys2Proof.Machine
end

