-- ==== Sys2Proof/Machine/Ports.lean ====
section
/-! DEFINITION. The Panel Port and the Remote Port (spec file 09): PCS_FALL, FRAME_TYPE_BYTE, COMMAND_FRAME_END, FETCH_LENGTH_BYTE,
WINDOW_ENTRY, READ_WINDOW_END, PORT_STATUS_BYTE, PCS_RISE, I2C_ADDRESS, REMOTE_WRITE_FIRST_BYTE, REMOTE_WRITE_OVERLONG,
REMOTE_WRITE_END, READ_TRANSACTION_END. While RESETn is low the ports take nothing (R8). -/

namespace Sys2Proof.Machine

/-! ### Panel port -/

/-- The MALFORMED count rises and stays at 255 (R160, R164). -/
def PanelPort.countMalformed (p : PanelPort) : PanelPort := { p with malformed := min 255 (p.malformed + 1) }

/-- The frame that a type byte begins (R159). -/
def frameOf (type : Byte) : Frame :=
  if type = 0x01#8 then .command []
  else if type = 0x02#8 then .fetch none
  else if type = 0x03#8 then .window none
  else if type = 0x04#8 then .status none
  else .unknown

/-- The type byte completes (R159, R164). -/
def PanelPort.takeType (type : Byte) (p : PanelPort) : PanelPort :=
  match frameOf type with
  | .unknown => { p.countMalformed with frame := .unknown }
  | f => { p with frame := f }

/-- The end of a COMMAND frame of the given bytes (R160). -/
def PanelPort.takeCommand (bytes : List Byte) (p : PanelPort) : PanelPort :=
  let q := { p with frame := .idle }
  if Config.commandBytes < bytes.length then
    if q.replies.length < Config.panelCapacity then
      { q.countMalformed with replies := q.replies ++ [{ tag := tagOf bytes, code := .badFrame, data := [] }] }
    else q.countMalformed
  else if q.commands.length < Config.panelCapacity then { q with commands := q.commands ++ [bytes] }
  else { q with overrun := true }

/-- The length byte of a FETCH frame is begun: the oldest reply leaves the queue, and its length and bytes are sent; from an empty
queue a length of 0 (R161, R183). -/
def PanelPort.fetch (p : PanelPort) : PanelPort :=
  match p.replies with
  | [] => { p with frame := .fetch (some [0#8]) }
  | r :: rest => { p with frame := .fetch (some r.framed), replies := rest }

/-- The slot after the cursor, round the window (R165). -/
def PanelPort.nextCursor (p : PanelPort) : Nat := if p.cursor = p.last then p.first else p.cursor + 1

/-- The status byte is formed, and OVERRUN cleared once it has been clocked out (R163). -/
def PanelPort.sendStatus (clockedOut : Bool) (p : PanelPort) : PanelPort :=
  { p with
    frame := .status (some (p.statusByte, byteOf p.malformed))
    overrun := if clockedOut then false else p.overrun }

/-- PCS_FALL (R159). -/
def execPcsFall (s : State) : Host.Outcome State Fault Refusal :=
  .next (if s.held || s.panel.frame != .idle then s else s.withPanel { s.panel with frame := .untyped })

/-- FRAME_TYPE_BYTE (R159). -/
def execFrameTypeByte (type : Byte) (s : State) : Host.Outcome State Fault Refusal :=
  .next (if s.held || s.panel.frame != .untyped then s else s.withPanel (s.panel.takeType type))

/-- COMMAND_FRAME_END (R160): the bytes taken before and those that came until PCS rose are the frame's (log 14). -/
def execCommandFrameEnd (bytes : List Byte) (s : State) : Host.Outcome State Fault Refusal :=
  .next (match s.panel.frame with
    | .command taken => if s.held then s else s.withPanel (s.panel.takeCommand (taken ++ bytes))
    | .idle | .untyped | .fetch _ | .window _ | .status _ | .unknown => s)

/-- FETCH_LENGTH_BYTE (R161). -/
def execFetchLengthByte (s : State) : Host.Outcome State Fault Refusal :=
  .next (if s.held || s.panel.frame != .fetch none then s else s.withPanel s.panel.fetch)

/-- WINDOW_ENTRY (R165). -/
def execWindowEntry (s : State) : Host.Outcome State Fault Refusal :=
  .next (if s.held || !s.windowInProgress then s
    else
      s.withPanel
        { s.panel with frame := .window (some (s.snap.entry s.panel.cursor).bytes), cursor := s.panel.nextCursor })

/-- READ_WINDOW_END (R91). -/
def execReadWindowEnd (s : State) : Host.Outcome State Fault Refusal :=
  .next (if s.held || !s.windowInProgress then s
    else
      let s' := s.withPanel { s.panel with frame := .idle }
      if s.snap.deferred then s'.takeRefresh else s')

/-- PORT_STATUS_BYTE (R163). -/
def execPortStatusByte (clockedOut : Bool) (s : State) : Host.Outcome State Fault Refusal :=
  .next (if s.held || s.panel.frame != .status none then s else s.withPanel (s.panel.sendStatus clockedOut))

/-- The frame is one that PCS_RISE ends: the COMMAND and READ WINDOW frames end by their own commands (R159). -/
def Frame.endsPlainly : Frame → Bool
  | .untyped | .fetch _ | .status _ | .unknown => true
  | .idle | .command _ | .window _ => false

/-- PCS_RISE (R159). -/
def execPcsRise (s : State) : Host.Outcome State Fault Refusal :=
  .next (if s.held || !s.panel.frame.endsPlainly then s else s.withPanel { s.panel with frame := .idle })

/-! ### What the panel host reads -/

/-- The byte the panel port sends at place n of a frame: in a READ WINDOW frame with an entry begun, place n of that entry; in any
other frame, the n-th byte after the type byte, the dummy byte at place 0. While the type byte comes, in COMMAND and unknown frames,
in the dummy byte and after all there is to send, 0x00; without a frame, nothing (R159, R161, R163, R164, R165). -/
def Frame.toHost (f : Frame) (n : Nat) : Option Byte :=
  match f with
  | .idle => none
  | .untyped | .command _ | .fetch none | .window none | .status none | .unknown => some 0#8
  | .fetch (some bytes) => some ((0#8 :: bytes).getD n 0#8)
  | .status (some (formed, held)) => some ([0#8, formed, held].getD n 0#8)
  | .window (some entry) => some (entry.getD n 0#8)

/-- The byte on the panel port's data output at place n of the frame in progress (R159, R170). -/
def State.panelSends (s : State) (n : Nat) : Option Byte := if s.held then none else s.panel.frame.toHost n

/-! ### Remote port -/

/-- Collected bytes enter the tail of the remote command queue as one command (R168). -/
def RemotePort.deliver (bytes : List Byte) (p : RemotePort) : RemotePort :=
  { p with commands := p.commands ++ [bytes], transaction := .idle }

/-- A STOP or repeated START ends the transaction in progress; a write delivers its bytes, at most 64 (R167, R168). -/
def RemotePort.finish (rest : List Byte) (p : RemotePort) : RemotePort :=
  match p.transaction with
  | .collecting b =>
    if rest.length < Config.commandBytes then p.deliver (b :: rest) else { p with transaction := .idle }
  | .idle | .addressed | .dropped | .reading _ => { p with transaction := .idle }

/-- A read transaction begins: the oldest reply leaves the queue, with its length before it (R169). -/
def RemotePort.beginRead (p : RemotePort) : RemotePort :=
  match p.replies with
  | [] => { p with transaction := .reading [0#8], ack := true }
  | r :: rest =>
    { p with transaction := .reading r.framed, replies := rest, ack := true }

/-- A START and an address byte (R167). -/
def RemotePort.takeAddress (address : BitVec 7) (read : Bool) (p : RemotePort) : RemotePort :=
  let q := p.finish []
  if address = q.address then
    if read then q.beginRead else { q with transaction := .addressed, ack := true }
  else { q with ack := false }

/-- The first data byte of a write (R168). -/
def RemotePort.takeFirst (byte : Byte) (p : RemotePort) : RemotePort :=
  if p.commands.length < Config.remoteCapacity then { p with transaction := .collecting byte, ack := true }
  else { p with transaction := .dropped, ack := false }

/-- The transaction is a write that collects bytes. -/
def RemotePort.isCollecting (p : RemotePort) : Bool :=
  match p.transaction with
  | .collecting _ => true
  | .idle | .addressed | .dropped | .reading _ => false

/-- The transaction is a write that was not dropped. -/
def RemotePort.isWriting (p : RemotePort) : Bool :=
  match p.transaction with
  | .collecting _ | .addressed => true
  | .idle | .dropped | .reading _ => false

/-- The transaction is a read, or a dropped write. -/
def RemotePort.isReadOrDropped (p : RemotePort) : Bool :=
  match p.transaction with
  | .reading _ | .dropped => true
  | .idle | .addressed | .collecting _ => false

/-- The n-th byte a read transaction sends: the length byte, the reply, then 0x00 for every further byte; without a reply 0x00
alone (R169). In any other transaction the port sends nothing. -/
def Transaction.toHost (x : Transaction) (n : Nat) : Option Byte :=
  match x with
  | .reading bytes => some (bytes.getD n 0#8)
  | .idle | .addressed | .collecting _ | .dropped => none

/-- The n-th byte the remote port sends in the transaction in progress (R169, R170). -/
def State.remoteSends (s : State) (n : Nat) : Option Byte := if s.held then none else s.remote.transaction.toHost n

/-- I2C_ADDRESS (R167). -/
def execI2cAddress (address : BitVec 7) (read : Bool) (s : State) : Host.Outcome State Fault Refusal :=
  .next (if s.held then s else s.withRemote (s.remote.takeAddress address read))

/-- REMOTE_WRITE_FIRST_BYTE (R168). -/
def execRemoteWriteFirstByte (byte : Byte) (s : State) : Host.Outcome State Fault Refusal :=
  .next (if s.held || s.remote.transaction != .addressed then s else s.withRemote (s.remote.takeFirst byte))

/-- REMOTE_WRITE_OVERLONG (R168). -/
def execRemoteWriteOverlong (s : State) : Host.Outcome State Fault Refusal :=
  .next (if s.held || !s.remote.isCollecting then s
    else s.withRemote { s.remote with transaction := .dropped, ack := false })

/-- REMOTE_WRITE_END (R168). -/
def execRemoteWriteEnd (rest : List Byte) (s : State) : Host.Outcome State Fault Refusal :=
  .next (if s.held || !s.remote.isWriting then s else s.withRemote (s.remote.finish rest))

/-- READ_TRANSACTION_END (R169); it also ends a write that was dropped (R168; log 35). -/
def execReadTransactionEnd (s : State) : Host.Outcome State Fault Refusal :=
  .next (if s.held || !s.remote.isReadOrDropped then s else s.withRemote { s.remote with transaction := .idle })

end Sys2Proof.Machine
end

