-- ==== Sys2Proof/Machine/RecordCommands.lean ====
section
/-! DEFINITION. The record commands (sections 8.6, 3.12, 4.8): CREATE, RETIRE, PAUSE, RESUME, ADJUST, SET LEVEL, SKIP, START, QUERY,
LIST. The bodies take the parameter bytes from the whole command: byte 2 is the first parameter (R180). -/

namespace Sys2Proof.Machine

/-! ### CREATE (R150, R151) -/

/-- The record that an accepted CREATE writes (R20, R64). -/
def newRecord (p : Port) (c : CreateParams) (sc : StartCondition) : Record :=
  { station := c.station, origin := p, state := .armed, start := sc, detached := false
    stages := c.stages.map (RawStage.stored c.station), stage := 0, remaining := 0, acc := 0, starve := 0
    starvedRaised := false, reminder := if c.reminder = 0 then none else some c.reminder, reminderDone := false
    standing := .part 0, grace := 0, absent := 0, flameOut := false, keep := false, alerts := 0#6 }

/-- The linked record has ended at the CREATE, so the link is released there (R73). -/
def Table.linkedEnded (t : Table) (sc : StartCondition) : Bool :=
  sc.kind == .after && (t.rec? sc.linked).elim false (fun r => r.state == .ended)

/-- The start condition as the CREATE event leaves it before placement (R64, R73). -/
def Table.createdStart (t : Table) (sc : StartCondition) : StartCondition :=
  if t.linkedEnded sc then { sc with linked := 0, count := sc.offset } else sc

/-- The record is due at its CREATE (R20, R66, R73). -/
def Table.dueAtCreate (t : Table) (sc : StartCondition) : Bool :=
  sc.kind == .now || (t.linkedEnded sc && sc.offset == 0)

/-- The slot that an AFTER names holds no record the port may see (R73). -/
def State.linkMissing (s : State) (p : Port) (sc : StartCondition) : Bool :=
  sc.kind == .after && !(s.table.rec? sc.linked).elim false (fun r => portViews s.settings p r.station)

/-- The chain would be too deep (R74). -/
def Table.chainTooDeep (t : Table) (sc : StartCondition) : Bool :=
  sc.kind == .after && decide (5 ≤ 1 + t.depth 5 sc.linked)

/-- Step 11 of CREATE, then its work (R18, R20, R150). -/
def State.createChecked (s : State) (p : Port) (c : CreateParams) (sc : StartCondition) : Verdict :=
  if sc.kind == .clockTime && !s.time.valid then .error .noClock
  else if s.linkMissing p sc then .error .noRecord
  else if s.table.chainTooDeep sc then .error .chainTooDeep
  else
    match s.table.free? with
    | none => .error .noSlot
    | some k =>
      if Config.stationCapacity ≤ s.table.stationCount c.station then .error .stationFull
      else
        let written := s.withTable (s.table.put k (some (newRecord p c (s.table.createdStart sc))))
        let placed := if s.table.dueAtCreate sc then written.place k else written
        .ok (placed, byteOf k :: placed.stateByteOf k)

/-- The work of CREATE (R150). -/
def createBody (p : Port) (bytes : List Byte) (s : State) : Verdict :=
  match parseCreate bytes with
  | none => .error .badFrame
  | some c =>
    if c.acceptable then
      match c.start? with
      | none => .error .badParam
      | some sc => s.allowed p c.station true (s.createChecked p c sc)
    else .error .badParam

/-- CREATE (R150, R151). -/
def execCreate (s : State) : Host.Outcome State Fault Refusal := execute 0x10 createBody s

/-! ### RETIRE, PAUSE, RESUME (R152) -/

/-- A retirement of the record would promote a queued record of a gas station (R147). -/
def State.retirePromotesGas (s : State) (k : Nat) (r : Record) : Bool :=
  isGas r.station && s.table.head r.station == k && !(s.table.queue r.station).isEmpty

/-- The work of RETIRE (R29, R152). -/
def retireBody (p : Port) (bytes : List Byte) (s : State) : Verdict :=
  let k := field bytes 2 1
  s.withRecord p k fun r =>
    s.allowed p r.station false <|
      guarded p (s.retirePromotesGas k r) <|
        .ok (settleFrom s (s.retire k true []), [])

/-- RETIRE (R29, R30, R152). -/
def execRetire (s : State) : Host.Outcome State Fault Refusal := execute 0x11 retireBody s

/-- A record that a PAUSE stops: an electric record takes the standing VOID (R46, R53). -/
def Record.pauseAt (r : Record) : Record :=
  { r with state := .paused, standing := if isGas r.station then r.standing else .void }

/-- The work of PAUSE (R53, R108, R152). -/
def pauseBody (p : Port) (bytes : List Byte) (s : State) : Verdict :=
  let k := field bytes 2 1
  s.withRecord p k fun r =>
    s.allowed p r.station false <|
      inState (r.state == .running) <|
        let t := ((s.modify k Record.pauseAt).dropElements (stationElements r.station) s.commandSlice).follow r.station
        .ok (t, t.stateByteOf k)

/-- PAUSE (R28, R53, R152). -/
def execPause (s : State) : Host.Outcome State Fault Refusal := execute 0x12 pauseBody s

/-- A RESUME acts on the record (R16, R152). -/
def Record.resumable (r : Record) : Bool :=
  r.state == .paused || r.state == .held || (r.state == .ended && r.keep && r.flameOut)

/-- The record after a RESUME (R16). -/
def Record.resumeAt (r : Record) : Record :=
  if r.state == .ended then { r with flameOut := false } else { r with state := .running, flameOut := false }

/-- The work of RESUME (R16, R152). -/
def resumeBody (p : Port) (bytes : List Byte) (s : State) : Verdict :=
  let k := field bytes 2 1
  s.withRecord p k fun r =>
    s.allowed p r.station true <|
      inState r.resumable <|
        let t := (s.modify k Record.resumeAt).follow r.station
        .ok (t, t.stateByteOf k)

/-- RESUME (R16, R28, R152). -/
def execResume (s : State) : Host.Outcome State Fault Refusal := execute 0x13 resumeBody s

/-! ### ADJUST (R58) -/

/-- The time that an ADJUST changes: remaining of the current stage, or stage 1's duration (R58). -/
def Record.adjustedTime (r : Record) : Option Nat :=
  match r.state with
  | .running | .paused | .held => some r.remaining
  | .armed | .queued => some ((r.stageAt? 1).elim 0 Stage.duration)
  | .ended => none

/-- Replace that time (R58). -/
def Record.setTime (v : Nat) (r : Record) : Record :=
  match r.state with
  | .running | .paused | .held => { r with remaining := v }
  | .armed | .queued => { r with stages := r.stages.modify 0 (fun g => { g with duration := v }) }
  | .ended => r

/-- The reminder is armed again by an ADJUST that leaves the total above the threshold (R57). -/
def Record.rearm (r : Record) : Record :=
  if r.reminder.elim false (fun t => decide (10 * t < r.total)) then { r with reminderDone := false } else r

/-- The gas limit of ADJUST: a longer time (R146). -/
def Record.adjustLengthens (r : Record) (delta : Int) : Bool :=
  decide (0 < delta) || r.adjustedTime.elim false (fun v => decide (v < clampTime v delta))

/-- The work of ADJUST (R56, R57, R58, R153). -/
def adjustBody (p : Port) (bytes : List Byte) (s : State) : Verdict :=
  let k := field bytes 2 1
  let delta := signedField bytes 3
  if delta < -(Config.maxSeconds : Int) ∨ (Config.maxSeconds : Int) < delta then .error .badParam
  else
    s.withRecord p k fun r =>
      s.allowed p r.station (r.adjustLengthens delta) <|
        match r.adjustedTime with
        | none => .error .wrongState
        | some v =>
          .ok (settleFrom s (s.modify k (fun r => (r.setTime (clampTime v delta)).rearm.remind)),
            leBytes 3 (clampTime v delta))

/-- ADJUST (R58, R153). -/
def execAdjust (s : State) : Host.Outcome State Fault Refusal := execute 0x14 adjustBody s

/-! ### SET LEVEL (R59) -/

/-- A SET LEVEL acts on the record (R59). -/
def Record.levelSettable (r : Record) : Bool := r.state != .ended || r.keep

/-- The stage as a SET LEVEL of the given value leaves it: burner level, grill level with FULL or HALF, oven setpoint (R59, R180). -/
def Stage.withLevel (st v : Nat) (g : Stage) : Stage :=
  if isGas st then { g with level := clampLevel st v }
  else if st = Config.GR then { g with level := clampLevel st (v % 256), full := v / 256 != 0 }
  else { g with setpoint := some (clampSetpoint v) }

/-- The stored value, laid out as the command's value (R183; log 16 for the byte of FULL). -/
def Stage.storedValue (st : Nat) (g : Stage) : Nat :=
  if isGas st then g.level
  else if st = Config.GR then g.level + 256 * flag g.full
  else g.setpoint.getD 0

/-- The gas limit of SET LEVEL: a higher level than the stage's own (R146). -/
def Record.levelRaises (r : Record) (v : Nat) : Bool :=
  r.levelSettable && (r.shownStage?).elim false (fun g => decide (g.level < clampLevel r.station v))

/-- The work of SET LEVEL (R59, R153). A grill level number of 0 is the level 0 that step 6 refuses, found once the record is
known (log 15). -/
def setLevelBody (p : Port) (bytes : List Byte) (s : State) : Verdict :=
  let k := field bytes 2 1
  let v := field bytes 3 2
  if v = 0 then .error .badParam
  else
    s.withRecord p k fun r =>
      if r.station = Config.GR ∧ v % 256 = 0 then .error .badParam
      else
        s.allowed p r.station (r.levelRaises v) <|
          inState r.levelSettable <|
            let t := (s.modify k (fun r =>
              { r with stages := r.stages.modify (r.shownIndex - 1) (Stage.withLevel r.station v) })).follow r.station
            .ok (t, leBytes 2 (((r.shownStage?).map (fun g => (g.withLevel r.station v).storedValue r.station)).getD 0)
              ++ [byteOf r.shownIndex])

/-- SET LEVEL (R59, R153). -/
def execSetLevel (s : State) : Host.Outcome State Fault Refusal := execute 0x15 setLevelBody s

/-! ### SKIP and START (R60, R79) -/

/-- A SKIP of the record would make a record of a gas station due (R147). -/
def State.skipStartsGas (s : State) (k : Nat) (r : Record) : Bool :=
  !r.hasNextStage &&
    !(s.table.slotsWhere (fun d => d.waitsOn k && isGas d.station && d.start.offset == 0)).isEmpty

/-- The work of SKIP (R56, R60, R153). -/
def skipBody (p : Port) (bytes : List Byte) (s : State) : Verdict :=
  let k := field bytes 2 1
  s.withRecord p k fun r =>
    s.allowed p r.station true <|
      inState (r.state == .running) <|
        guarded p (s.skipStartsGas k r) <|
          let t := settleFrom s ((s.endStage k s.commandSlice).modify k Record.remind)
          .ok (t, t.stateByteOf k ++ [byteOf ((t.table.rec? k).elim 0 Record.stage)])

/-- SKIP (R60, R153). -/
def execSkip (s : State) : Host.Outcome State Fault Refusal := execute 0x16 skipBody s

/-- The work of START (R79, R153). -/
def startBody (p : Port) (bytes : List Byte) (s : State) : Verdict :=
  let k := field bytes 2 1
  s.withRecord p k fun r =>
    s.allowed p r.station true <|
      inState (r.state == .armed) <|
        let t := s.place k
        .ok (t, t.stateByteOf k)

/-- START (R79, R153). -/
def execStart (s : State) : Host.Outcome State Fault Refusal := execute 0x17 startBody s

/-! ### QUERY and LIST (R154) -/

/-- The work of QUERY (R114, R154). -/
def queryBody (p : Port) (bytes : List Byte) (s : State) : Verdict :=
  let k := field bytes 2 1
  s.withRecord p k fun r => .ok (s, s.queryData k r)

/-- QUERY (R154). -/
def execQuery (s : State) : Host.Outcome State Fault Refusal := execute 0x20 queryBody s

/-- The work of LIST (R34, R154). -/
def listBody (p : Port) (bytes : List Byte) (s : State) : Verdict :=
  let st := field bytes 2 1
  if 7 < st then .error .badParam
  else
    let slots := if portViews s.settings p st then s.table.listing st else []
    .ok (s, byteOf slots.length :: slots.map byteOf)

/-- LIST (R34, R154). -/
def execList (s : State) : Host.Outcome State Fault Refusal := execute 0x21 listBody s

end Sys2Proof.Machine
end

