-- ==== Sys2Proof/Machine/StartUp.lean ====
section
/-! DEFINITION. Power, RESETn, the beginning of the start-up load, and the writes of a store (spec files 01 and 10): POWER_ON,
RESETN_LOW, RESETN_RELEASE, STORE_WRITE_COMPLETE, STORE_WRITE_TIMEOUT. -/

namespace Sys2Proof.Machine

/-! ### The reading of status and header (R175) -/

/-- The memory becomes ready within the status bytes it answers in the 10 ms allowed: 0xFF ends the reading, a busy status is
read again (R175; log 7). -/
def statusReady : List Byte → Bool
  | [] => false
  | b :: bs => if b = 0xFF#8 then false else if busy b then statusReady bs else true

/-- The status reads that the load makes of the bytes the memory would answer: up to a ready status or 0xFF (R175). -/
def statusReads : List Byte → List Byte
  | [] => []
  | b :: bs => if b ≠ 0xFF#8 ∧ busy b = true then b :: statusReads bs else [b]

/-- The header of a whole image of the known version (R175). -/
def headerOk (m : List Host.Cell) : Bool :=
  Memory.read m 0 == Config.signature && Memory.read m 1 == Config.version

/-- The byte count of the header (R175). -/
def headerCount (m : List Host.Cell) : Nat := leValue (Memory.readBytes m 2 2)

/-- A start-up load begins (R175). -/
def beginLoad (status : List Byte) (m : List Host.Cell) : SettingsUnit :=
  if statusReady status then
    if headerOk m then
      .powerUp .loaded (min Config.maxImage (headerCount m) / 6) (headerCount m % 6 != 0)
    else .powerUp .blank 0 false
  else .powerUp .absent 0 false

/-- The memory link's transfers for the reading of status and header: the header's four bytes once the memory is ready (R175). -/
def headerTransfers (status : List Byte) (m : List Host.Cell) : List Transfer :=
  (statusReads status).map Transfer.readStatus ++ (if statusReady status then [Transfer.readData m 0 4] else [])

/-! ### The store (R177, R178) -/

/-- The memory after the write in progress of a store has been done. -/
def State.storeWritten (s : State) (n : Nat) : List Host.Cell :=
  Memory.writeBytes s.memory (storePage s.settings.image n).1 (storePage s.settings.image n).2

/-- The memory after power is cut: a page write under way may have been completed by the memory itself (log 11). -/
def State.memoryAfterCut (s : State) (landed : Bool) : List Host.Cell :=
  match s.settings.store with
  | .inProgress n => if landed then s.storeWritten n else s.memory
  | .none | .ok | .failed _ => s.memory

/-- The memory after RESETn has abandoned a store: a page write already begun may be completed by the memory itself, and unless
write 6 was, byte 0 holds 0x00 (R178; log 11). -/
def State.memoryAfterAbandon (s : State) (landed : Bool) : List Host.Cell :=
  match s.settings.store with
  | .inProgress n =>
    if landed && decide (n = 6) then s.storeWritten n else Memory.write (s.memoryAfterCut landed) 0 0#8
  | .none | .ok | .failed _ => s.memory

/-- The memory after write n has timed out, left with the given bytes at the write's addresses; write 0 leaves byte 0 at its old
value (R178; log 10). -/
def State.memoryAfterTimeout (s : State) (n : Nat) (left : List Byte) : List Host.Cell :=
  let page := storePage s.settings.image n
  if n = 0 then Memory.writeBytes s.memory 1 ((left.take page.2.length).drop 1)
  else Memory.writeBytes s.memory page.1 (left.take page.2.length)

/-! ### Meanings -/

/-- The power-on state of every block, the load begun (R8). -/
def State.startPart (s : State) (radr : BitVec 2) (status : List Byte) (m : List Host.Cell) : State :=
  { State.powerUp radr (beginLoad status m) m s.pending with link := headerTransfers status m }

/-- POWER_ON (R8). -/
def execPowerOn (radr : BitVec 2) (status : List Byte) (landed : Bool) (s : State) : Host.Outcome State Fault Refusal :=
  .next (s.startPart radr status (s.memoryAfterCut landed))

/-- RESETN_LOW (R8, R170, R178): every block is held in its power-on state, the latched remote address kept until the release. -/
def execResetnLow (landed : Bool) (s : State) : Host.Outcome State Fault Refusal :=
  .next (if s.held then s
    else
      { State.powerUp 0#2 (.powerUp .blank 0 false) (s.memoryAfterAbandon landed) s.pending with
        held := true, remote := { RemotePort.powerUp 0#2 with address := s.remote.address } })

/-- RESETN_RELEASE (R8). -/
def execResetnRelease (radr : BitVec 2) (status : List Byte) (s : State) : Host.Outcome State Fault Refusal :=
  .next (if s.held then s.startPart radr status s.memory else s)

/-- STORE_WRITE_COMPLETE (R174, R177): the polling of the write in progress reads busy clear, so the write is done; the next begins,
or after write 6 the store is OK. -/
def execStoreWriteComplete (s : State) : Host.Outcome State Fault Refusal :=
  .next (match s.settings.store with
    | .inProgress n =>
      ((s.withMemory (s.storeWritten n)).withLink (storeTransfers s.settings.image n true)).withSettings
        (if n < 6 then { s.settings with store := .inProgress (n + 1) } else { s.settings with store := .ok, image := [] })
    | .none | .ok | .failed _ => s)

/-- STORE_WRITE_TIMEOUT (R174, R178): every status read reads busy, and the store ends FAILED with the number of the write. -/
def execStoreWriteTimeout (left : List Byte) (s : State) : Host.Outcome State Fault Refusal :=
  .next (match s.settings.store with
    | .inProgress n =>
      ((s.withMemory (s.memoryAfterTimeout n left)).withLink (storeTransfers s.settings.image n false)).withSettings
        { s.settings with store := .failed n, image := [] }
    | .none | .ok | .failed _ => s)

end Sys2Proof.Machine
end

