-- ==== Sys2Proof/Machine/UnitCommands.lean ====
section
/-! DEFINITION. The clock, window, settings and reset commands (sections 8.5, 8.7, 8.8): SET CLOCK, WINDOW, SET ITEM, GET ITEM,
STORE SETTINGS, SETTINGS STATUS, GRANT, SOFT RESET, STATION RESET. -/

namespace Sys2Proof.Machine

/-! ### SET CLOCK (R71, R86) -/

/-- The span of a clock change (R71). -/
def clockSpan (old new : Nat) : Nat := (new + Config.daySeconds - old) % Config.daySeconds

/-- The jump is a forward one: CLOCK_VALID before it and a span of 1..43,200 (R71). -/
def TimeBase.jumpsForward (t : TimeBase) (new : Nat) : Bool :=
  t.valid && decide (1 ≤ clockSpan t.clock new) && decide (clockSpan t.clock new ≤ 43200)

/-- The ARMED AT records that a clock change makes due (R71). -/
def State.jumpDue (s : State) (new : Nat) : List Nat :=
  if s.time.jumpsForward new then
    s.table.slotsWhere (fun r => r.waitsClock && decide (clockCountdown s.time.clock r.start.minute ≤ clockSpan s.time.clock new))
  else []

/-- A clock change would make a record of a gas station due (R147). -/
def State.jumpStartsGas (s : State) (new : Nat) : Bool :=
  (s.jumpDue new).any (fun k => (s.table.rec? k).elim false (fun r => isGas r.station))

/-- A reading as hour, minute and second bytes (R183). -/
def clockBytes (reading : Nat) : List Byte :=
  [byteOf (reading / 3600), byteOf (reading / 60 % 60), byteOf (reading % 60)]

/-- The work of SET CLOCK (R86, R147, R156). -/
def setClockBody (p : Port) (bytes : List Byte) (s : State) : Verdict :=
  let h := field bytes 2 1
  let m := field bytes 3 1
  let sec := field bytes 4 1
  if 23 < h ∨ 59 < m ∨ 59 < sec then .error .badParam
  else
    let new := 3600 * h + 60 * m + sec
    guarded p (s.jumpStartsGas new) <|
      .ok ((s.withTime { s.time with clock := new, valid := true }).placeAll (s.jumpDue new),
        clockBytes s.time.clock ++ [byteOf (flag s.time.valid)])

/-- SET CLOCK (R86, R156). -/
def execSetClock (s : State) : Host.Outcome State Fault Refusal := execute 0x40 setClockBody s

/-! ### WINDOW (R156, R166) -/

/-- The work of WINDOW (R156, R166). -/
def windowBody (p : Port) (bytes : List Byte) (s : State) : Verdict :=
  panelOnly p <|
    let first := field bytes 2 1
    let last := field bytes 3 1
    if 1 ≤ first ∧ first ≤ last ∧ last ≤ Config.slotCount then
      .ok (s.withPanel { s.panel with first := first, last := last, cursor := first }, [])
    else .error .badParam

/-- WINDOW (R156, R166). -/
def execWindow (s : State) : Host.Outcome State Fault Refusal := execute 0x41 windowBody s

/-! ### Settings (R172, R173) -/

/-- Step 5: no store is in progress (R142). -/
def State.notStoring (s : State) (work : Verdict) : Verdict :=
  if s.settings.storing then .error .busy else work

/-- A value that SET ITEM accepts: in the item's range, and for Bs at most the working B (R172). -/
def SettingsUnit.acceptsItem (u : SettingsUnit) (it : Config.Item) (v : Nat) : Bool :=
  itemAccepts it v && (it.id != Config.shedId || decide (v ≤ u.value Config.budgetId))

/-- SET ITEM of B keeps Bs at or below the new B (R172). -/
def SettingsUnit.setBudget (u : SettingsUnit) (v : Nat) : SettingsUnit :=
  (u.withValue Config.budgetId v).withValue Config.shedId (min v (u.value Config.shedId))

/-- A kind's priority takes a new value; the annunciator takes the change as one event (R118, R125). -/
def State.setPriority (s : State) (id v : Nat) : State :=
  let s' := s.withSettings (s.settings.withValue id v)
  if s.settings.value id = v then s' else s'.settle

/-- The effect of an accepted SET ITEM (R172). -/
def State.setItem (s : State) (id v : Nat) : State :=
  if id = Config.budgetId then s.withSettings (s.settings.setBudget v)
  else if 0x40 ≤ id ∧ id ≤ 0x45 then s.setPriority id v
  else if 0x50 ≤ id ∧ id ≤ 0x57 then s.setPermission (id - 0x50) v
  else s.withSettings (s.settings.withValue id v)

/-- The data of a SET ITEM reply (R183). -/
def State.itemBytes (s : State) (id : Nat) : List Byte := leBytes 2 id ++ leBytes 4 (s.settings.value id)

/-- The work of SET ITEM (R156, R172). -/
def setItemBody (p : Port) (bytes : List Byte) (s : State) : Verdict :=
  panelOnly p <|
    s.notStoring <|
      let id := field bytes 2 2
      let v := field bytes 4 4
      match itemAt id with
      | none => .error .badParam
      | some (_, it) =>
        if s.settings.acceptsItem it v then
          let t := s.setItem id v
          .ok (t, t.itemBytes id
            ++ (if id = Config.budgetId then leBytes 4 (t.settings.value Config.shedId) else []))
        else .error .badParam

/-- SET ITEM (R156, R172). -/
def execSetItem (s : State) : Host.Outcome State Fault Refusal := execute 0x50 setItemBody s

/-- The work of GET ITEM (R156, R173). -/
def getItemBody (_p : Port) (bytes : List Byte) (s : State) : Verdict :=
  let id := field bytes 2 2
  match itemAt id with
  | none => .error .badParam
  | some _ => .ok (s, s.itemBytes id)

/-- GET ITEM (R156, R173). -/
def execGetItem (s : State) : Host.Outcome State Fault Refusal := execute 0x51 getItemBody s

/-- The work of STORE SETTINGS (R156, R177). -/
def storeSettingsBody (p : Port) (_bytes : List Byte) (s : State) : Verdict :=
  panelOnly p <|
    s.notStoring <|
      .ok (s.withSettings { s.settings with store := .inProgress 0, image := imageOf s.settings.values }, [])

/-- STORE SETTINGS (R156, R177). -/
def execStoreSettings (s : State) : Host.Outcome State Fault Refusal := execute 0x52 storeSettingsBody s

/-- The data of a SETTINGS STATUS reply (R173, R183). -/
def SettingsUnit.statusBytes (u : SettingsUnit) : List Byte :=
  byteOf u.loader.num :: (leBytes 2 u.applied ++ leBytes 2 u.skipped ++ leBytes 2 u.rejected)
    ++ [byteOf (flag u.partialEntry), byteOf u.store.num, byteOf u.store.failedWrite]

/-- The work of SETTINGS STATUS (R156, R173). -/
def settingsStatusBody (_p : Port) (_bytes : List Byte) (s : State) : Verdict := .ok (s, s.settings.statusBytes)

/-- SETTINGS STATUS (R156, R173). -/
def execSettingsStatus (s : State) : Host.Outcome State Fault Refusal := execute 0x53 settingsStatusBody s

/-! ### GRANT (R149) -/

/-- The work of GRANT (R149). -/
def grantBody (p : Port) (bytes : List Byte) (s : State) : Verdict :=
  panelOnly p <|
    s.notStoring <|
      let st := field bytes 2 1
      let v := field bytes 3 1
      if 7 < st ∨ 2 < v then .error .badParam
      else .ok (s.setPermission st v, [byteOf (s.settings.permission st)])

/-- GRANT (R149). -/
def execGrant (s : State) : Host.Outcome State Fault Refusal := execute 0x60 grantBody s

/-! ### SOFT RESET and STATION RESET (R157, R158) -/

/-- SOFT RESET on every block (R157): table, alerts, apportioner, burners, and both ports' queues. -/
def State.softReset (s : State) : State :=
  { s with
    table := .empty
    burners := List.replicate 6 ⟨0, 0⟩
    app := s.app.softReset s.commandSlice
    ann := .quiet
    panel := { s.panel with commands := [], replies := [] }
    remote := { s.remote with commands := [], replies := [] }
    todo := s.todo.filter (fun w => !isNote w) }

/-- The work of SOFT RESET (R157). -/
def softResetBody (p : Port) (_bytes : List Byte) (s : State) : Verdict := panelOnly p (.ok (s.softReset, []))

/-- SOFT RESET (R157). -/
def execSoftReset (s : State) : Host.Outcome State Fault Refusal := execute 0x61 softResetBody s

/-- STATION RESET on the station named (R39, R115, R134, R158). -/
def State.stationReset (s : State) (st : Nat) : State :=
  settleFrom s
    ((s.retireAll (s.table.slotsWhere (fun r => r.station == st)) false).dropElements (stationElements st) s.commandSlice)

/-- The work of STATION RESET (R158). -/
def stationResetBody (p : Port) (bytes : List Byte) (s : State) : Verdict :=
  panelOnly p <|
    let st := field bytes 2 1
    if 7 < st then .error .badParam else .ok (s.stationReset st, [])

/-- STATION RESET (R158). -/
def execStationReset (s : State) : Host.Outcome State Fault Refusal := execute 0x62 stationResetBody s

end Sys2Proof.Machine
end

