-- ==== Sys2Proof/Machine/Dispatch.lean ====
section
/-! DEFINITION. One arm per command: its meaning. -/

namespace Sys2Proof.Machine

def exec (i : Instr) (s : State) : Host.Outcome State Fault Refusal :=
  match i with
  | .powerOn radr status landed => Sys2Proof.Machine.execPowerOn radr status landed s
  | .resetnLow landed => Sys2Proof.Machine.execResetnLow landed s
  | .resetnRelease radr status => Sys2Proof.Machine.execResetnRelease radr status s
  | .loadEntry => Sys2Proof.Machine.execLoadEntry s
  | .loadEnd => Sys2Proof.Machine.execLoadEnd s
  | .sliceBoundary lines first later => Sys2Proof.Machine.execSliceBoundary lines first later s
  | .secondBoundary => Sys2Proof.Machine.execSecondBoundary s
  | .periodBoundary => Sys2Proof.Machine.execPeriodBoundary s
  | .syncFall => Sys2Proof.Machine.execSyncFall s
  | .delayDue slot => Sys2Proof.Machine.execDelayDue slot s
  | .offsetDue slot => Sys2Proof.Machine.execOffsetDue slot s
  | .stageEnd slot => Sys2Proof.Machine.execStageEnd slot s
  | .recordEnd slot => Sys2Proof.Machine.execRecordEnd slot s
  | .flameLoss station => Sys2Proof.Machine.execFlameLoss station s
  | .soundTimeout => Sys2Proof.Machine.execSoundTimeout s
  | .create => Sys2Proof.Machine.execCreate s
  | .retire => Sys2Proof.Machine.execRetire s
  | .pause => Sys2Proof.Machine.execPause s
  | .resume => Sys2Proof.Machine.execResume s
  | .adjust => Sys2Proof.Machine.execAdjust s
  | .setLevel => Sys2Proof.Machine.execSetLevel s
  | .skip => Sys2Proof.Machine.execSkip s
  | .start => Sys2Proof.Machine.execStart s
  | .query => Sys2Proof.Machine.execQuery s
  | .list => Sys2Proof.Machine.execList s
  | .nextAlert => Sys2Proof.Machine.execNextAlert s
  | .ack => Sys2Proof.Machine.execAck s
  | .silence => Sys2Proof.Machine.execSilence s
  | .setClock => Sys2Proof.Machine.execSetClock s
  | .window => Sys2Proof.Machine.execWindow s
  | .setItem => Sys2Proof.Machine.execSetItem s
  | .getItem => Sys2Proof.Machine.execGetItem s
  | .storeSettings => Sys2Proof.Machine.execStoreSettings s
  | .settingsStatus => Sys2Proof.Machine.execSettingsStatus s
  | .grant => Sys2Proof.Machine.execGrant s
  | .softReset => Sys2Proof.Machine.execSoftReset s
  | .stationReset => Sys2Proof.Machine.execStationReset s
  | .badCommand => Sys2Proof.Machine.execBadCommand s
  | .storeWriteComplete => Sys2Proof.Machine.execStoreWriteComplete s
  | .storeWriteTimeout left => Sys2Proof.Machine.execStoreWriteTimeout left s
  | .pcsFall => Sys2Proof.Machine.execPcsFall s
  | .frameTypeByte type => Sys2Proof.Machine.execFrameTypeByte type s
  | .commandFrameEnd bytes => Sys2Proof.Machine.execCommandFrameEnd bytes s
  | .fetchLengthByte => Sys2Proof.Machine.execFetchLengthByte s
  | .windowEntry => Sys2Proof.Machine.execWindowEntry s
  | .readWindowEnd => Sys2Proof.Machine.execReadWindowEnd s
  | .portStatusByte clockedOut => Sys2Proof.Machine.execPortStatusByte clockedOut s
  | .i2cAddress address read => Sys2Proof.Machine.execI2cAddress address read s
  | .remoteWriteFirstByte byte => Sys2Proof.Machine.execRemoteWriteFirstByte byte s
  | .remoteWriteOverlong => Sys2Proof.Machine.execRemoteWriteOverlong s
  | .remoteWriteEnd rest => Sys2Proof.Machine.execRemoteWriteEnd rest s
  | .pcsRise => Sys2Proof.Machine.execPcsRise s
  | .readTransactionEnd => Sys2Proof.Machine.execReadTransactionEnd s
  | .commandWithoutCode => Sys2Proof.Machine.execCommandWithoutCode s

end Sys2Proof.Machine
end

