-- ==== Sys2Proof/Machine/Step.lean ====
section
/-! DEFINITION. One step of the block: the command at the front of the queue, or a crystal cycle of the Time Base where none waits. -/

namespace Sys2Proof.Machine

/-- Take the command at the front of the queue and run it on the rest; with an empty queue one crystal cycle
passes (R82; log 1, log 30). -/
def step (s : State) : Host.Outcome State Fault Refusal :=
  match s.pending with
  | [] => .next s.idleCycle
  | c :: rest => exec c { s with pending := rest }

/-- The state with the command that a word of the opcode table spells at the front of its queue; no row gives bits, so no word
spells one. -/
def State.withFetchWord (s : State) (nbits w : Nat) : State :=
  match decodeTableWord nbits w with
  | some c => { s with pending := c :: s.pending }
  | none => s

end Sys2Proof.Machine
end

