-- ==== Sys2Proof/Safety.lean ====
section
/-! DEFINITION. What the spec promises of every state of the part, in the terms the statements use: order of the annunciator's
contexts, loads within the slice budget, settings in range, the shape of the Schedule Table, burner levels that follow the
heads, and the effects that several commands share. -/

namespace Sys2Proof.Machine

/-! ### The annunciator (R120) -/

/-- At most three saved contexts; captured priorities fall strictly from the current context down the stack; no saved context
without a current one (R120). -/
structure Annunciator.Ordered (a : Annunciator) : Prop where
  depth : a.stack.length ≤ 3
  falling : ((a.current.toList ++ a.stack).map Context.priority).Pairwise (fun x y => y < x)
  based : a.current = none → a.stack = []

/-! ### Pending alerts (R119) -/

/-- The slot's record is on a visible station and has a pending alert of the kind, whose priority is 1 or more. -/
def Table.waits (t : Table) (u : SettingsUnit) (visible : Nat → Bool) (a : Nat × AlertKind) : Prop :=
  a.1 ∈ allSlots ∧ ∃ r, t.rec? a.1 = some r ∧ visible r.station = true ∧ r.hasAlert a.2 = true ∧ 1 ≤ u.priority a.2

/-- The first alert is chosen before the second: a higher priority, then a lower slot, then an earlier kind (R119). -/
def SettingsUnit.prefers (u : SettingsUnit) (a b : Nat × AlertKind) : Prop :=
  u.priority b.2 < u.priority a.2
  ∨ (u.priority b.2 = u.priority a.2 ∧ (a.1 < b.1 ∨ (a.1 = b.1 ∧ a.2.num ≤ b.2.num)))

/-! ### The supply budget (R104) -/

/-- From the slice in progress on, no slice of the plan loads the supply above the slice budget, unless a new period is still to
be opened at this boundary (R102, R104, R112). -/
structure State.LoadsFit (s : State) : Prop where
  five : s.app.elements.length = 5
  slice : s.time.slice < 10
  second : s.time.second < 10
  fits : s.awaits .openPeriod = false →
    ∀ j, s.time.sliceNumber ≤ j → j < Config.periodSlices → s.app.load j ≤ s.app.sliceBudget

/-! ### Working settings (R171, R172) -/

/-- Each of the 29 working values lies in its item's range, and outside the start-up load Bs is at most B (R171, R172, R176). -/
structure SettingsUnit.InRange (u : SettingsUnit) : Prop where
  all : u.values.length = Config.items.length
  items : ∀ p ∈ Config.items.zip u.values, itemAccepts p.1 p.2 = true
  shed : u.loader ≠ .loading → u.value Config.shedId ≤ u.value Config.budgetId

/-! ### The Schedule Table (R17, R18, R22, R24, R41, R43, R74) -/

/-- A record's own fields: a station of the part, 1..8 stages of at least 10 ds, a current stage of the list while it is head,
time left while it counts. -/
structure Record.Sound (r : Record) : Prop where
  station : r.station < 8
  some_stage : 1 ≤ r.stages.length
  few_stages : r.stages.length ≤ 8
  durations : ∀ g ∈ r.stages, Config.minStage ≤ g.duration ∧ g.duration ≤ Config.maxStage
  index : r.stage ≤ r.stages.length
  head_index : r.isHead = true → 1 ≤ r.stage
  last : r.state = .ended → r.stage = r.stages.length
  left : r.state = .running ∨ r.state = .paused ∨ r.state = .held → 1 ≤ r.remaining ∧ r.remaining ≤ Config.maxStage
  keep_ended : r.keep = true → r.state = .ended

/-- The Schedule Table is consistent: 48 slots and eight stations; every record sound; the head of a station is exactly its one
record that is RUNNING, PAUSED, HELD or ENDED with the keep mark; the queue is exactly its QUEUED records, each once; a station
with a queue has a head; a station holds at most six records; no link names an EMPTY slot, and no chain of links is longer than
four. -/
structure Table.Consistent (t : Table) : Prop where
  slots : t.slots.length = Config.slotCount
  heads : t.heads.length = 8
  queues : t.queues.length = 8
  sound : ∀ k r, t.rec? k = some r → r.Sound
  head_iff : ∀ k r, t.rec? k = some r → (r.isHead = true ↔ t.head r.station = k)
  head_rec : ∀ st, st < 8 → t.head st ≠ 0 → ∃ r, t.rec? (t.head st) = some r ∧ r.station = st
  queue_iff : ∀ k r, t.rec? k = some r → (r.state = .queued ↔ k ∈ t.queue r.station)
  queue_rec : ∀ st k, st < 8 → k ∈ t.queue st → ∃ r, t.rec? k = some r ∧ r.station = st
  queue_once : ∀ st, (t.queue st).Nodup
  queue_head : ∀ st, st < 8 → t.queue st ≠ [] → t.head st ≠ 0
  station_full : ∀ st, st < 8 → t.stationCount st ≤ 6
  linked : ∀ k r, t.rec? k = some r → r.holdsLink = true → ∃ q, t.rec? r.start.linked = some q
  chain : ∀ k r, t.rec? k = some r → t.depth 5 k ≤ 4

/-! ### Burner levels (R11) -/

/-- Every commanded level is the one its station's head gives, and a level above 0 comes from that head (R11, R12). -/
structure State.LevelsFollow (s : State) : Prop where
  six : s.burners.length = 6
  level : ∀ st, st < 6 → (s.burner st).level = s.table.levelOf st
  source : ∀ st, st < 6 → (s.burner st).level ≠ 0 → (s.burner st).source = s.table.head st

/-! ### Frames -/

/-- The blocks that no work of the Schedule Table, the Record Engine, the Burner Drive, the Apportioner or the Alert Unit
touches. -/
structure State.SameHost (s t : State) : Prop where
  held : t.held = s.held
  time : t.time = s.time
  settings : t.settings = s.settings
  snap : t.snap = s.snap
  panel : t.panel = s.panel
  remote : t.remote = s.remote
  lastServed : t.lastServed = s.lastServed
  memory : t.memory = s.memory
  link : t.link = s.link
  pending : t.pending = s.pending

/-! ### Alerts and contexts (R121, R122, R123) -/

/-- The annunciator stands as an evaluation leaves it: every context's alert is pending at a priority above 0, and no pending
alert other than the current one has a priority above the current captured one. While the start-up load runs, or its end is
still to be taken, the table has no record (R36, R140). -/
structure State.Settled (s : State) : Prop where
  alive : ∀ c ∈ s.ann.current.toList ++ s.ann.stack, c.alive s.table s.settings = true
  best : ∀ b, bestAlert s.table s.settings (fun _ => true) = some b →
    ∃ c, s.ann.current = some c ∧ (c.presents b = true ∨ s.settings.priority b.2 ≤ c.priority)
  load_work : s.awaits .loadEnd = true → s.loading = true
  load_empty : s.loading = true → ∀ k, s.table.rec? k = none

/-- The Alert Unit has taken an event whole (R121, R131): where it changed no flag the annunciator stands as it was; otherwise the
contexts of the cleared alerts are gone and one evaluation has followed, on the table and the settings as the event left them (R122
to R125; EvaluationFollowsItsTable says what State.settle does). The mark fresh, which a command clears, is the model's (log 17). -/
def State.AnnTaken (s t : State) : Prop :=
  (t.table.pendingTable = s.table.pendingTable → t.ann = s.ann)
  ∧ (t.table.pendingTable ≠ s.table.pendingTable →
      t.ann = { ({ s with table := t.table, settings := t.settings } : State).settle.ann with fresh := t.ann.fresh })

/-! ### The part after power-on (R8) -/

/-- Every block in its power-on state with the remote address latched from RADR1..RADR0; the start-up load has begun (R8, R10,
R17, R83, R93, R94, R117, R120, R137, R144, R167, R171, R175). -/
structure State.PoweredUp (t : State) (radr : BitVec 2) : Prop where
  held : t.held = false
  cycle : t.time.cycle = 0
  slice : t.time.slice = 0
  second : t.time.second = 0
  clock : t.time.clock = 0 ∧ t.time.valid = false
  lines : t.time.lines.hcall = false ∧ t.time.lines.door = false ∧ t.time.lines.shed = false
  slots : ∀ k, t.table.rec? k = none
  stations : ∀ st, t.table.head st = 0 ∧ t.table.queue st = []
  burners : ∀ st, (t.burner st).level = 0
  plan : ∀ e, (t.app.element e).on = [] ∧ (t.app.element e).relay = false ∧ (t.app.element e).request = 0
    ∧ (t.app.element e).grant = 0 ∧ (t.app.element e).delivered = 0 ∧ (t.app.element e).blocked = false
  in_force : t.app.elements.map Element.rating = [1100, 1200, 2000, 1400, 1000]
    ∧ t.app.elements.map Element.rank = [3, 4, 2, 0, 1]
  budgets : t.app.budget = 0 ∧ t.app.shedBudget = 0 ∧ t.app.periodBudget = 0 ∧ t.app.sliceBudget = 0
  figures : t.app.oven = ⟨0, 0⟩ ∧ t.app.grill = ⟨0, 0⟩
  quiet : t.ann.current = none ∧ t.ann.stack = [] ∧ t.ann.timer = 0 ∧ t.ann.phase = 0
  settings : ∀ (i : Nat) (it : Config.Item), Config.items[i]? = some it → t.settings.values[i]? = some it.dflt
  load : t.settings.loader = .loading ∧ t.settings.applied = 0 ∧ t.settings.skipped = 0 ∧ t.settings.rejected = 0
    ∧ t.settings.store = .none
  window : t.panel.first = 1 ∧ t.panel.last = 48 ∧ t.panel.cursor = 1
  panel : t.panel.commands = [] ∧ t.panel.replies = [] ∧ t.panel.overrun = false ∧ t.panel.malformed = 0
    ∧ t.panel.frame = .idle
  remote : t.remote.commands = [] ∧ t.remote.replies = [] ∧ t.remote.transaction = .idle
  address : t.remote.address = 0x52#7 + radr.zeroExtend 7
  served : t.lastServed = .remote
  entries : t.snap.entries = allSlots.map Entry.empty ∧ t.snap.deferred = false ∧ t.snap.syncCount = 0

/-! ### Commands taken by the Command Unit (R135, R139) -/

/-- The code of a command row; none for the rows that are no command of the twenty-two. -/
def commandCode : Instr → Option Nat
  | .create => some 0x10
  | .retire => some 0x11
  | .pause => some 0x12
  | .resume => some 0x13
  | .adjust => some 0x14
  | .setLevel => some 0x15
  | .skip => some 0x16
  | .start => some 0x17
  | .query => some 0x20
  | .list => some 0x21
  | .nextAlert => some 0x30
  | .ack => some 0x31
  | .silence => some 0x32
  | .setClock => some 0x40
  | .window => some 0x41
  | .setItem => some 0x50
  | .getItem => some 0x51
  | .storeSettings => some 0x52
  | .settingsStatus => some 0x53
  | .grant => some 0x60
  | .softReset => some 0x61
  | .stationReset => some 0x62
  | .powerOn _ _ _ | .resetnLow _ | .resetnRelease _ _ | .loadEntry | .loadEnd | .sliceBoundary _ _ _ | .secondBoundary
  | .periodBoundary | .syncFall | .delayDue _ | .offsetDue _ | .stageEnd _ | .recordEnd _ | .flameLoss _ | .soundTimeout
  | .badCommand | .storeWriteComplete | .storeWriteTimeout _ | .pcsFall | .frameTypeByte _ | .commandFrameEnd _
  | .fetchLengthByte | .windowEntry | .readWindowEnd | .portStatusByte _ | .i2cAddress _ _ | .remoteWriteFirstByte _
  | .remoteWriteOverlong | .remoteWriteEnd _ | .pcsRise | .readTransactionEnd | .commandWithoutCode => none

/-- Replies waiting on a port. -/
def State.replies (s : State) : Port → List Reply
  | .panel => s.panel.replies
  | .remote => s.remote.replies

/-- The state once the oldest command of a port has left its queue and its reply stands at the tail: nothing else differs. -/
def State.answered (s : State) (p : Port) (bytes : List Byte) (code : ResultCode) (data : List Byte) : State :=
  (s.takeCommand p).reply p { tag := tagOf bytes, code := code, data := data }

/-- The Command Unit takes a command of this code, well formed, on this port, the start-up load having ended: steps 1 to 3 of
R139 pass. -/
structure State.Takes (s : State) (p : Port) (code : Nat) (bytes : List Byte) : Prop where
  chosen : s.chosen = some (p, bytes)
  coded : codeOf? bytes = some code
  loaded : s.loading = false
  length : lengthOk code bytes = true

/-- A command that names a slot finds a record there on which the port has FULL access: steps 6 to 8 of R139, the gas limits
aside. -/
structure State.Reaches (s : State) (p : Port) (bytes : List Byte) (r : Record) : Prop where
  slot : 1 ≤ field bytes 2 1 ∧ field bytes 2 1 ≤ Config.slotCount
  record : s.table.rec? (field bytes 2 1) = some r
  access : s.fullAccess p r.station = true

/-! ### Effects on the table and on the Apportioner -/

/-- The state with its table, burners, Apportioner, annunciator and boundary work replaced: the blocks that an event on records
may change. -/
def State.onRecords (s t : State) : State :=
  { s with table := t.table, burners := t.burners, app := t.app, ann := t.ann, todo := t.todo }

/-- The elements named are dropped from slice k on: their entries from k on and their relay lines are off; every other element,
and everything else of the Apportioner, is as before (R106). -/
structure Apportioner.Dropped (a b : Apportioner) (es : List Nat) (k : Nat) : Prop where
  dropped : ∀ e ∈ es, b.element e = { a.element e with on := (a.element e).on.filter (fun j => decide (j < k)), relay := false }
  others : ∀ e, e ∉ es → b.element e = a.element e
  rest : b = { a with elements := b.elements }

/-- Elements of a station's set before an event that are not in its set after it. -/
def State.leaving (s t : State) (st : Nat) : List Nat :=
  (s.table.elements st).filter (fun e => !(t.table.elements st).contains e)

/-- The elements in placement order up to and with element e. -/
def Apportioner.upTo (a : Apportioner) (e : Nat) : List Nat := a.placementOrder.takeWhile (fun f => f != e) ++ [e]

/-- The record as it enters RUNNING from ARMED or QUEUED (R25, R43, R64): its first stage from the beginning, its start condition
spent; on a gas station a stage with a level starts a grace, also where the head before it was lit (R12). An electric record's
standing is PARTIAL 0 until, at a period boundary, the opening sets WHOLE (R46, R50). Every other field is kept. -/
def Record.entering (u : SettingsUnit) (r : Record) : Record :=
  let lit := isGas r.station && (r.stageAt? 1).any (fun g => decide (g.level ≠ 0))
  { r with
    state := .running, start := { r.start with count := 0, linked := 0 }, stage := 1
    remaining := (r.stageAt? 1).elim 0 Stage.duration, acc := 0, starve := 0, starvedRaised := false
    standing := if isGas r.station then r.standing else .part 0
    grace := if lit then 10 * u.value Config.graceId else r.grace
    absent := if lit then 0 else r.absent }

/-- The record as it joins a queue from ARMED: its start condition is spent, and every other field is kept (R23, R64). -/
def Record.joining (r : Record) : Record := { r with state := .queued, start := { r.start with count := 0, linked := 0 } }

/-- The burner of a gas station has the level of the first stage of this record (R11). -/
def State.FirstLevel (t : State) (r : Record) : Prop :=
  isGas r.station = true → ∀ g, r.stageAt? 1 = some g → (t.burner r.station).level = g.level

/-- The record of slot k, due, has been placed (R23, R25, R43, R64): head of a station without a head, RUNNING from the
beginning of its first stage, or else QUEUED at the tail of the station's queue. -/
structure State.Placed (s t : State) (k : Nat) (r : Record) : Prop where
  as_head : s.table.head r.station = 0 →
    t.table.head r.station = k ∧ t.table.queue r.station = s.table.queue r.station
    ∧ t.table.rec? k = some (r.entering s.settings) ∧ t.FirstLevel r
  as_queued : s.table.head r.station ≠ 0 →
    t.table.head r.station = s.table.head r.station ∧ t.table.queue r.station = s.table.queue r.station ++ [k]
    ∧ t.table.rec? k = some r.joining ∧ t.burners = s.burners
  other_records : ∀ j, j ≠ k → t.table.rec? j = s.table.rec? j
  other_stations : ∀ st, st ≠ r.station →
    t.table.head st = s.table.head st ∧ t.table.queue st = s.table.queue st ∧ t.burner st = s.burner st

/-- Those of the slots whose record is on a station. -/
def Table.onStation (t : Table) (ks : List Nat) (st : Nat) : List Nat :=
  ks.filter (fun k => (t.rec? k).any (fun r => decide (r.station = st)))

/-- The records of these slots, ascending, have fallen due at one event and been placed together (R23, R68, R71): on a station with a
head all of them join the queue's tail; on one without a head the first becomes head and the others queue behind it. -/
structure State.PlacedTogether (s t : State) (ks : List Nat) : Prop where
  ascending : ks.Pairwise (· < ·)
  joined : ∀ st, st < 8 → s.table.head st ≠ 0 ∨ s.table.onStation ks st = [] →
    t.table.head st = s.table.head st ∧ t.table.queue st = s.table.queue st ++ s.table.onStation ks st ∧ t.burner st = s.burner st
  headed : ∀ st k rest, st < 8 → s.table.head st = 0 → s.table.onStation ks st = k :: rest →
    t.table.head st = k ∧ t.table.queue st = rest
  record : ∀ k ∈ ks, ∀ r, s.table.rec? k = some r →
    if s.table.head r.station = 0 ∧ (s.table.onStation ks r.station).head? = some k then
      t.table.rec? k = some (r.entering s.settings) ∧ t.FirstLevel r
    else t.table.rec? k = some r.joining

/-- The clock and the start conditions of a second boundary have been taken, as one event (R68, R69, R76, R85). The clock advances.
A DELAY, and an offset that did not begin at this boundary, falls by 1; those that come to 0, and the AT records whose due instant is
the new reading, fall due and are placed together. Every other record stays as it is. A record that enters RUNNING is not counted at
this boundary (R43); no other share of work is taken or added. -/
structure State.StartsTaken (s t : State) : Prop where
  frame : t = { s with
    time := { s.time with clock := (s.time.clock + 1) % 86400 }, table := t.table, burners := t.burners, todo := t.todo }
  placed : ∃ ks, s.PlacedTogether t ks
    ∧ (∀ k, k ∈ ks ↔ k ∈ allSlots ∧ ∃ r, s.table.rec? k = some r ∧ r.state = .armed
        ∧ ((s.awaits (.released k) = false ∧ r.start.count ≤ 1
            ∧ (r.start.kind = .delay ∨ (r.start.kind = .after ∧ r.start.linked = 0)))
          ∨ (r.start.kind = .clockTime ∧ r.start.minute * 60 = (s.time.clock + 1) % 86400)))
    ∧ ∀ k, k ∉ ks → t.table.rec? k = (s.table.rec? k).map (fun r =>
        if s.awaits (.released k) = false ∧ r.state = .armed ∧ (r.start.kind = .delay ∨ (r.start.kind = .after ∧ r.start.linked = 0))
          then { r with start := { r.start with count := r.start.count - 1 } } else r)
  taken : t.awaits .clock = false
  counts : ∀ k, t.awaits (.count k) = true ↔ s.awaits (.count k) = true
    ∧ ((t.table.rec? k).any (fun r => r.state == .running) = true → (s.table.rec? k).any (fun r => r.state == .running) = true)
  work : ∀ w, w ≠ .clock → (∀ k, w ≠ .count k ∧ w ≠ .released k) → t.awaits w = s.awaits w

/-- The current stage of the head record of slot k has ended and the next has begun (R51, R43). Its standing is PARTIAL 0 until, at a
period boundary, the opening sets WHOLE (R46, R50). -/
structure State.StageEnded (s t : State) (k : Nat) (r : Record) : Prop where
  record : ∃ q, t.table.rec? k = some q ∧ q.state = .running ∧ q.stage = r.stage + 1
    ∧ q.remaining = (r.stageAt? (r.stage + 1)).elim 0 Stage.duration ∧ q.acc = 0 ∧ q.starve = 0 ∧ q.starvedRaised = false
    ∧ (isGas r.station = false → q.standing = .part 0)
    ∧ q.stages = r.stages ∧ q.station = r.station ∧ q.start = r.start
    ∧ q.hasAlert .stageEnd = (r.hasAlert .stageEnd || (r.stageAt? r.stage).elim false Stage.second)
  stations : t.table.heads = s.table.heads ∧ t.table.queues = s.table.queues
  other_records : ∀ j, j ≠ k → t.table.rec? j = s.table.rec? j
  level : isGas r.station = true → ∀ g, r.stageAt? (r.stage + 1) = some g → (t.burner r.station).level = g.level

/-- The last stage of the head record of slot k has ended (R27, R52, R75), where no other record waits on it: with KEEP it stays
head; with OFF the first queued record takes its place, or the station has no head. Every other record stays as it is. -/
structure State.RecordEnded (s t : State) (k : Nat) (r : Record) : Prop where
  record : ∃ q, t.table.rec? k = some q ∧ q.hasAlert .recordEnd = true
    ∧ q = { r with
        state := .ended, remaining := 0, keep := (r.stageAt? r.stage).elim false Stage.second
        acc := q.acc, starve := q.starve, starvedRaised := q.starvedRaised, standing := q.standing, alerts := q.alerts }
  kept : (r.stageAt? r.stage).elim false Stage.second = true →
    t.table.heads = s.table.heads ∧ t.table.queues = s.table.queues
    ∧ (isGas r.station = true → ∀ g, r.stageAt? r.stage = some g → r.flameOut = false →
        (t.burner r.station).level = g.level)
  off_alone : (r.stageAt? r.stage).elim false Stage.second = false → s.table.queue r.station = [] →
    t.table.head r.station = 0 ∧ t.table.queue r.station = []
    ∧ (isGas r.station = true → (t.burner r.station).level = 0)
  off_queued : (r.stageAt? r.stage).elim false Stage.second = false → ∀ n rest, s.table.queue r.station = n :: rest →
    t.table.head r.station = n ∧ t.table.queue r.station = rest
    ∧ ∃ q, s.table.rec? n = some q ∧ t.table.rec? n = some (q.entering s.settings) ∧ t.FirstLevel q
  other_records : ∀ j, j ≠ k →
    (r.stageAt? r.stage).elim false Stage.second = true ∨ (s.table.queue r.station).head? ≠ some j →
    t.table.rec? j = s.table.rec? j
  other_stations : ∀ st, st ≠ r.station →
    t.table.head st = s.table.head st ∧ t.table.queue st = s.table.queue st ∧ t.burner st = s.burner st

/-- A number of steps on an empty queue; none where one of them gives no next state. -/
def idleSteps : Nat → State → Option State
  | 0, s => some s
  | n + 1, s =>
    match step s with
    | .next t => idleSteps n t
    | .fault _ | .refused _ => none

/-- Run commands one after another; none where one of them gives no next state. -/
def execAll : List Instr → State → Option State
  | [], s => some s
  | c :: cs, s =>
    match exec c s with
    | .next t => execAll cs t
    | .fault _ | .refused _ => none

end Sys2Proof.Machine
end

