-- ==== Sys2Proof/Certificates/Slice0/Obligations.lean ====
section
/-! DEFINITION. The statements about the part, for the provers: the interface, reset, the invariants, the boundaries, the commands
of the Command Unit, and the two ports. -/

open Sys2Proof Sys2Proof.Machine

/-! ### The block's step -/

/-- A step takes the command at the front of the queue and runs its meaning on the rest. The queue is the model's own: log 1. -/
def Obligations.StepRunsTheFrontCommand : Prop :=
  ∀ (c : Instr) (rest : List Instr) (s : State), s.pending = c :: rest → step s = exec c { s with pending := rest }

/-- With an empty queue a step lets one crystal cycle pass: it is counted, and nothing else changes; the cycle that completes the
slice makes the boundary and is not counted, the count returning to 0 (R82). That the input lines stand at it as they were sampled
last is the model's choice (log 1, log 30). While RESETn is low nothing is counted. A slice is 3,277 cycles long, every fifth 3,276:
five slices take 16,384 cycles, ten 32,768. After a release the first boundary is made by the 3,277th cycle (R83). -/
def Obligations.IdleStepCountsACycle : Prop :=
  (∀ s : State, s.pending = [] →
    (s.held = true → step s = .next s)
    ∧ (s.held = false → s.time.cycle + 1 < s.time.sliceLength →
        step s = .next { s with time := { s.time with cycle := s.time.cycle + 1 } })
    ∧ (s.held = false → s.time.cycle + 1 = s.time.sliceLength →
        ∃ t, step s = .next t ∧ step s = exec (.sliceBoundary s.time.lines [] []) s ∧ t.time.cycle = 0
          ∧ t.time.slice = (if s.time.slice + 1 < 10 then s.time.slice + 1 else 0)))
  ∧ (∀ t : TimeBase, (t.slice = 4 ∨ t.slice = 9 → t.sliceLength = 3276)
      ∧ (t.slice < 10 → t.slice ≠ 4 → t.slice ≠ 9 → t.sliceLength = 3277)
      ∧ ((List.range 5).map (fun k => ({ t with slice := k } : TimeBase).sliceLength)).sum = 16384
      ∧ ((List.range 10).map (fun k => ({ t with slice := k } : TimeBase).sliceLength)).sum = 32768)
  ∧ (∀ s t : State, s.time.slice < 10 → s.time.cycle < s.time.sliceLength → step s = .next t → t.time.cycle < t.time.sliceLength)
  ∧ ∀ radr (s : State), s.PoweredUp radr → s.pending = [] →
      (∀ n, n < 3277 → idleSteps n s = some { s with time := { s.time with cycle := n } })
      ∧ ∃ t, idleSteps 3277 s = some t ∧ t.time.cycle = 0 ∧ t.time.slice = 1 ∧ t.time.second = 0

/-- No command stops the part, and no command touches the queue of waiting commands, which is the model's own
(log 1). -/
def Obligations.EveryCommandGivesANextState : Prop :=
  ∀ (c : Instr) (s : State), ∃ t, exec c s = .next t ∧ t.pending = s.pending

/-! ### Power, RESETn and the start-up load -/

/-- POWER_ON, and RESETN_RELEASE of a part held in reset, put every block into its power-on state, latch the remote address and
begin the start-up load (R8). -/
def Obligations.PowerOnAndReleaseStartThePart : Prop :=
  (∀ radr status landed (s : State), ∃ t, exec (.powerOn radr status landed) s = .next t
    ∧ t.PoweredUp radr ∧ t.pending = s.pending ∧ (s.settings.storing = false → t.memory = s.memory))
  ∧ ∀ radr status (s : State), s.held = true → ∃ t, exec (.resetnRelease radr status) s = .next t
    ∧ t.PoweredUp radr ∧ t.pending = s.pending ∧ t.memory = s.memory

/-- What the reading of status and header finds (R175): a status of 0xFF ends it ABSENT, a busy status is read again, a header
that is not 0xA6, 0x01 ends it BLANK, and otherwise the byte count gives the whole entries to read and the partial-entry flag.
The memory link's transfers are a status read, 0x0D, for each status byte, and, once the memory is ready, the data read of the four
header bytes, 0x0B with the address 0 (R174; that State shows them is the model's own: log 34). -/
def Obligations.HeaderDecidesTheLoad : Prop :=
  ∀ radr (b : Byte) (rest : List Byte) landed (s : State), ∃ t, exec (.powerOn radr (b :: rest) landed) s = .next t
    ∧ (b = 0xFF#8 → t.settings.finding = .absent ∧ t.settings.entryCount = 0)
    ∧ (b = 0xFF#8 → t.link = [Transfer.exchange [0x0D#8] [b]])
    ∧ (b ≠ 0xFF#8 → b.getLsbD 0 = true → ∃ u, exec (.powerOn radr rest landed) s = .next u
        ∧ t = { u with link := Transfer.exchange [0x0D#8] [b] :: u.link })
    ∧ (b ≠ 0xFF#8 → b.getLsbD 0 = false → t.link = [Transfer.exchange [0x0D#8] [b], Transfer.exchange [0x0B#8, 0#8, 0#8]
        [Memory.read t.memory 0, Memory.read t.memory 1, Memory.read t.memory 2, Memory.read t.memory 3]])
    ∧ (b ≠ 0xFF#8 → b.getLsbD 0 = false →
        (Memory.read t.memory 0 ≠ 0xA6#8 ∨ Memory.read t.memory 1 ≠ 0x01#8 →
          t.settings.finding = .blank ∧ t.settings.entryCount = 0)
        ∧ (Memory.read t.memory 0 = 0xA6#8 → Memory.read t.memory 1 = 0x01#8 →
            let n := (Memory.read t.memory 2).toNat + 256 * (Memory.read t.memory 3).toNat
            t.settings.finding = .loaded ∧ t.settings.entryCount = min 1536 n / 6
            ∧ (t.settings.partialEntry = true ↔ n % 6 ≠ 0)))

/-- A low level on RESETn turns every output off, empties the table, abandons frames, transactions, load and store, and keeps the
latched remote address. The memory changes only during a store: a page write under way may be completed by the memory itself
(log 11), and unless write 6 was, byte 0 holds 0x00, so that the load at the release finds the memory BLANK (R175, R178). While it
lasts the panel port ignores PCS, the remote port takes no transaction, and no boundary is made (R8, R170, R178). -/
def Obligations.ResetnLowHoldsThePart : Prop :=
  (∀ landed (s : State), s.held = false → ∃ t, exec (.resetnLow landed) s = .next t
    ∧ t.held = true ∧ (∀ e, t.relayLine e = false) ∧ (∀ st, t.levelLine st = 0) ∧ t.buz = false
    ∧ t.ready = false ∧ t.pattn = false ∧ t.sync = false ∧ t.rattn = false
    ∧ (∀ k, t.table.rec? k = none) ∧ t.panel.frame = .idle ∧ t.panel.commands = [] ∧ t.panel.replies = []
    ∧ t.remote.transaction = .idle ∧ t.remote.commands = [] ∧ t.remote.replies = []
    ∧ t.settings.store = .none ∧ t.remote.address = s.remote.address ∧ t.pending = s.pending
    ∧ (s.settings.storing = false → t.memory = s.memory)
    ∧ (∀ n, s.settings.store = .inProgress n → Memory.wf s.memory →
        (landed = false ∨ n ≠ 6 → Memory.read t.memory 0 = 0#8
          ∧ ∀ radr (b : Byte), b.getLsbD 0 = false → ∃ u, exec (.resetnRelease radr [b]) t = .next u
              ∧ u.settings.finding = .blank)
        ∧ (landed = false → ∀ a, a ≠ 0 → Memory.read t.memory a = Memory.read s.memory a)
        ∧ (landed = true → n = 6 → Memory.read t.memory 0 = 0xA6#8)))
  ∧ (∀ s : State, s.held = true →
    exec .pcsFall s = .next s ∧ (∀ b, exec (.frameTypeByte b) s = .next s) ∧ (∀ bs, exec (.commandFrameEnd bs) s = .next s)
    ∧ exec .fetchLengthByte s = .next s ∧ exec .windowEntry s = .next s ∧ exec .readWindowEnd s = .next s
    ∧ (∀ b, exec (.portStatusByte b) s = .next s) ∧ exec .pcsRise s = .next s
    ∧ (∀ a d, exec (.i2cAddress a d) s = .next s) ∧ (∀ b, exec (.remoteWriteFirstByte b) s = .next s)
    ∧ exec .remoteWriteOverlong s = .next s ∧ (∀ bs, exec (.remoteWriteEnd bs) s = .next s)
    ∧ exec .readTransactionEnd s = .next s ∧ exec .loadEntry s = .next s
    ∧ ∀ lines first later, exec (.sliceBoundary lines first later) s = .next s)

/-- LOAD_ENTRY reads the next whole entry of the image and applies, rejects or skips it, raising one count (R176); an entry is in
range by R171 and R2, where one worked example differs (log 36). It reads the six bytes by one data read of the memory link, 0x0B
with the entry's address, high byte first (R174, R179; one read an entry is the model's choice: log 34). -/
def Obligations.LoadEntryIsCounted : Prop :=
  ∀ s : State, s.held = false → s.loading = true → s.settings.entriesRead < s.settings.entryCount →
    let a := 4 + 6 * s.settings.entriesRead
    let id := leValue (Memory.readBytes s.memory a 2)
    let v := leValue (Memory.readBytes s.memory (a + 2) 4)
    ∃ t, exec .loadEntry s = .next t
      ∧ t = { s with
          settings := t.settings
          link := [Transfer.exchange [0x0B#8, byteOf (a / 256), byteOf a] (Memory.readBytes s.memory a 6)] }
      ∧ t.settings.entriesRead = s.settings.entriesRead + 1 ∧ t.settings.loader = .loading
      ∧ (itemAt id = none → t.settings = { s.settings with
          skipped := s.settings.skipped + 1, entriesRead := t.settings.entriesRead })
      ∧ (∀ i it, itemAt id = some (i, it) → ¬(it.low ≤ v ∧ v ≤ it.high ∧ v % it.step = 0) → t.settings = { s.settings with
          rejected := s.settings.rejected + 1, entriesRead := t.settings.entriesRead })
      ∧ (∀ i it, itemAt id = some (i, it) → it.low ≤ v ∧ v ≤ it.high ∧ v % it.step = 0 → t.settings = { s.settings with
          applied := s.settings.applied + 1, values := s.settings.values.set i v
          entriesRead := t.settings.entriesRead })

/-- LOAD_END, once every entry is read, gives the loader status its final value and brings a shed budget above the budget down to
it; every other working value stays (R176). -/
def Obligations.LoadEndIsFinal : Prop :=
  ∀ s : State, s.awaits .loadEnd = true → s.settings.entriesRead = s.settings.entryCount →
    s.settings.values.length = Config.items.length →
    ∃ t, exec .loadEnd s = .next t
      ∧ t = { s with settings := t.settings, todo := s.todo.filter (fun w => w != .loadEnd) }
      ∧ t.settings = { s.settings with values := t.settings.values, loader := s.settings.finding }
      ∧ t.settings.value Config.shedId = min (s.settings.value Config.shedId) (s.settings.value Config.budgetId)
      ∧ ∀ id, id ≠ Config.shedId → t.settings.value id = s.settings.value id

/-- Storing the working settings and starting up again restores them (R177, R175, R176): after the seven writes of a store, a
power-on and the reading of 29 entries, every working value is the one stored, and all 29 entries count as applied. -/
def Obligations.StoreThenLoadRestoresTheSettings : Prop :=
  ∀ (radr : BitVec 2) (s : State), s.settings.InRange → Memory.wf s.memory → s.settings.store = .inProgress 0 →
    s.settings.image = imageOf s.settings.values →
    ∃ t, execAll (List.replicate 7 .storeWriteComplete ++ [.powerOn radr [0#8] false]
          ++ List.replicate 29 .loadEntry) s = some t
      ∧ t.settings.values = s.settings.values ∧ t.settings.finding = .loaded
      ∧ t.settings.entriesRead = t.settings.entryCount ∧ t.settings.partialEntry = false
      ∧ t.settings.applied = 29 ∧ t.settings.rejected = 0 ∧ t.settings.skipped = 0

/-! ### Invariants -/

/-- The state after reset is the power-on state with RADR1..RADR0 low (log 8), nothing listed in the settings memory (log 6), no
command waiting, and it has every invariant stated below. -/
def Obligations.ResetMeetsTheInvariants : Prop :=
  State.reset.PoweredUp 0#2 ∧ State.reset.memory = [] ∧ State.reset.pending = [] ∧ State.reset.todo = []
  ∧ State.reset.ann.Ordered ∧ State.reset.Settled ∧ Memory.wf State.reset.memory ∧ State.reset.settings.InRange
  ∧ State.reset.table.Consistent ∧ State.reset.LevelsFollow ∧ State.reset.LoadsFit

/-- Every step keeps the order of the annunciator's contexts: at most three saved, captured priorities falling strictly from the
current context to the bottom of the stack (R120). -/
def Obligations.StepKeepsContextsOrdered : Prop :=
  ∀ s t : State, s.ann.Ordered → step s = .next t → t.ann.Ordered

/-- Every step leaves the annunciator as an evaluation would: the contexts' alerts are pending at a priority above 0, and no
pending alert waits with a priority above the current captured one (R121 to R125). -/
def Obligations.StepKeepsAnnunciatorSettled : Prop :=
  ∀ s t : State, s.Settled → step s = .next t → t.Settled

/-- Every step keeps the 29 working values in range, and outside the start-up load the shed budget at most the budget (R171,
R172, R176); and every step keeps the settings memory's contents in canonical form (the model's own form: log 6). -/
def Obligations.StepKeepsSettingsInRange : Prop :=
  ∀ s t : State, step s = .next t →
    (s.settings.InRange → t.settings.InRange) ∧ (Memory.wf s.memory → Memory.wf t.memory)

/-- Every step keeps the Schedule Table consistent (one controlling record a station, queues of QUEUED records only, stage
times within range, at most six records a station, no link to an EMPTY slot and no chain of links longer than four: R17, R18, R22,
R24, R41, R43, R74) with every burner at the level its station's head gives (R11). -/
def Obligations.StepKeepsTableConsistent : Prop :=
  ∀ s t : State, s.table.Consistent → s.LevelsFollow → step s = .next t → t.table.Consistent ∧ t.LevelsFollow

/-- Every step keeps each remaining slice of the plan within the slice budget (R102, R104, R106, R112). -/
def Obligations.StepKeepsLoadsWithinBudget : Prop :=
  ∀ s t : State, s.LoadsFit → step s = .next t → t.LoadsFit

/-- No command that the Command Unit takes from the remote port raises the commanded level of a burner (R146, R147, R148),
whatever the permissions. -/
def Obligations.RemoteCommandsRaiseNoBurner : Prop :=
  ∀ (c : Instr) (code : Nat) (bytes : List Byte) (s t : State), s.table.Consistent → s.LevelsFollow →
    commandCode c = some code → s.chosen = some (.remote, bytes) → exec c s = .next t →
    ∀ st, (t.burner st).level ≤ (s.burner st).level

/-! ### Boundaries -/

/-- A slice boundary returns the cycle count to 0, advances the slice and second counters modulo ten, and samples the lines; the
ports, the settings memory and CLOCK_VALID are left alone (R4, R82). The crystal cycles left of the slice pass before it, so that it
leads to the same state at whatever count the event is sent (the model's choice: log 30). -/
def Obligations.SliceBoundaryAdvancesTheTimeBase : Prop :=
  ∀ lines first later (s : State), s.held = false → ∃ t, exec (.sliceBoundary lines first later) s = .next t
    ∧ t.time.cycle = 0
    ∧ t.time.slice = (if s.time.slice + 1 < 10 then s.time.slice + 1 else 0)
    ∧ t.time.second = (if s.time.slice + 1 < 10 then s.time.second
        else if s.time.second + 1 < 10 then s.time.second + 1 else 0)
    ∧ t.time.lines = lines ∧ t.time.prior = (if s.time.sampled = true then some s.time.lines else none)
    ∧ t.time.sampled = true ∧ t.time.valid = s.time.valid
    ∧ t.panel = s.panel ∧ t.remote = s.remote ∧ t.memory = s.memory ∧ t.held = false ∧ t.lastServed = s.lastServed
    ∧ ∀ n, exec (.sliceBoundary lines first later) { s with time := { s.time with cycle := n } } = .next t

/-- Where no work is left to later events, every block has taken the boundary at its end, in whatever order the first works were
named: nothing is left to do, the start-up load has ended (R176), and the clock has advanced by one second exactly at a second
boundary (R84, R85). SLICE_BOUNDARY takes what is left of the boundary before, makes the boundary, and takes the shares named first
and then the rest but those left to later events. A boundary made brings each block its share as R84 gathers them: every slot's
counting, the flame judgements, the Alert Unit's and SYNC's, the relays or, at a period boundary, closing and opening, and at a
second boundary the clock with the start conditions, and the refresh. A share that no other must precede is performed and is then
not to be taken again; the closing stands before a countdown (R50), all of the Record Engine's work before the opening (R98), and a
refresh comes before all of that work or after all of it (R90). The order operands and the shares are the model's own: log 2. -/
def Obligations.BoundaryLeavesNoWork : Prop :=
  (∀ lines first (s : State), s.held = false → s.todo = [] → s.settings.finding ≠ .loading →
    ∃ t, exec (.sliceBoundary lines first []) s = .next t
      ∧ t.todo = [] ∧ t.loading = false
      ∧ t.time.clock = (if s.time.slice + 1 < 10 then s.time.clock else (s.time.clock + 1) % 86400))
  ∧ (∀ lines first later (s : State), s.held = false →
      let last := { s with time := { s.time with cycle := s.time.sliceLength - 1 } }
      let made := (if s.todo = [] then last else defaultOrder.foldl State.take last).makeBoundary lines
      exec (.sliceBoundary lines first later) s
        = .next ((defaultOrder.filter (fun w => !later.contains w)).foldl State.take (first.foldl State.take made)))
  ∧ (∀ lines (s : State),
      let made := s.makeBoundary lines
      let second := s.time.slice + 1 = 10
      let period := second ∧ s.time.second + 1 = 10
      made = { s with time := made.time, ann := { s.ann with fresh := false, ousted := none }, todo := made.todo }
      ∧ (s.time.slice < 10 → s.time.second < 10 → ∀ w, made.awaits w = true ↔ match w with
          | .count k => 1 ≤ k ∧ k ≤ 48
          | .judge st => st < 6
          | .alertTick | .syncTick => True
          | .relays => ¬period
          | .closePeriod | .openPeriod => period
          | .clock | .refresh => second
          | .loadEnd => s.loading = true
          | .released _ => False))
  ∧ ∀ (s : State) (w : Work), (s.awaits w = false → s.take w = s)
    ∧ (s.awaits w = true →
      let alone := (s.withTodo (s.todo.filter (fun v => v != w))).perform w
      match w with
      | .judge _ | .alertTick | .syncTick | .relays | .closePeriod | .clock | .loadEnd => s.take w = alone
      | .count _ => s.awaits .closePeriod = false → s.take w = alone
      | .openPeriod => s.awaits .closePeriod = false → (∀ v ∈ engineWork, s.awaits v = false) → s.take w = alone
      | .refresh => s.awaits .syncTick = false → s.awaits .closePeriod = false →
          (∀ v ∈ engineWork, s.awaits v = true) ∨ (∀ v ∈ engineWork, s.awaits v = false) → s.take w = alone
      | .released _ => s.take w = s)

/-- SECOND_BOUNDARY, the work of a second boundary being still to be taken: the clock advances, every start condition is taken, and
the Snapshot Buffer is filled and raises SYNC, or the refresh is deferred by a READ WINDOW frame (R84, R85, R90, R91, R92). That the
refresh is taken after the counting here is the model's order (log 2, log 3). R90 leaves both open: a refresh taken while all of the
Record Engine's work is still to be taken shows the records and the clock as they stood before the boundary; one taken later shows
them as they stand after all of that work, and takes what is left of it first (log 26). -/
def Obligations.SecondBoundaryTakesItsWork : Prop :=
  (∀ s : State, s.awaits .clock = true → s.awaits .refresh = true →
    ∃ t, exec .secondBoundary s = .next t
      ∧ t.time = { s.time with clock := (s.time.clock + 1) % 86400 }
      ∧ t.awaits .clock = false ∧ t.awaits .refresh = false ∧ (∀ k ∈ allSlots, t.awaits (.count k) = false)
      ∧ (s.windowInProgress = false → t.snap = { entries := snapshotOf t.table t.time.clock, deferred := false, syncCount := 5 })
      ∧ (s.windowInProgress = true → t.snap.entries = s.snap.entries ∧ t.snap.deferred = true)
      ∧ t.app.elements.length = s.app.elements.length ∧ t.settings = s.settings ∧ t.panel = s.panel ∧ t.remote = s.remote
      ∧ t.memory = s.memory)
  ∧ ∀ s : State, s.awaits .refresh = true → s.windowInProgress = false →
    let t := s.take .refresh
    t.snap = { entries := snapshotOf t.table t.time.clock, deferred := false, syncCount := 5 }
    ∧ ((∀ w ∈ engineWork, s.awaits w = true) → t.table = s.table ∧ t.time = s.time)
    ∧ ((∃ w ∈ engineWork, s.awaits w = false) → ∀ w ∈ engineWork, t.awaits w = false)

/-- PERIOD_BOUNDARY, the opening being still to be taken: the period is closed before and the Record Engine's work is done before,
and then the settings in force, the requests, the period and slice budgets, the marks and the relays are those of the new plan (R96,
R98, R102, R103, R104): placing the period's requests again gives the same plan. The opening sets the period standing: a RUNNING
head of OV or GR takes WHOLE, a PAUSED one VOID, also where its stage began at this boundary; where nothing but the opening is left
to take, no other record and nothing else of a record changes (R46, R50 step 6). -/
def Obligations.PeriodBoundaryOpensThePeriod : Prop :=
  ∀ s : State, s.awaits .openPeriod = true → s.app.elements.length = 5 →
    ∃ t, exec .periodBoundary s = .next t
      ∧ t.awaits .openPeriod = false ∧ t.awaits .closePeriod = false ∧ (∀ k ∈ allSlots, t.awaits (.count k) = false)
      ∧ t.settings = s.settings ∧ t.app.elements.length = 5
      ∧ t.app.budget = s.settings.value Config.budgetId ∧ t.app.shedBudget = s.settings.value Config.shedId
      ∧ t.app.periodBudget = (if s.time.lines.shed = true then min t.app.budget t.app.shedBudget else t.app.budget)
      ∧ t.app.sliceBudget = t.app.periodBudget
      ∧ (∀ j, j < 100 → t.app.load j ≤ t.app.periodBudget)
      ∧ (∀ e, e < 5 →
          let x := t.app.element e
          x.rating = s.settings.rating e ∧ x.rank = s.settings.rank e
          ∧ x.request = requestOf t.table s.time.lines e ∧ x.delivered = 0
          ∧ x.grant = x.on.length ∧ x.grant ≤ x.request ∧ (∀ j ∈ x.on, j < 100)
          ∧ (x.blocked = true ↔ 0 < x.request ∧ t.app.periodBudget < x.rating) ∧ (x.blocked = true → x.grant = 0)
          ∧ x.relay = x.onIn 0
          ∧ (t.app.placeAll.element e).on = x.on ∧ (t.app.placeAll.element e).grant = x.grant
          ∧ (t.app.placeAll.element e).blocked = x.blocked)
      ∧ (∀ st ∈ [6, 7], ∀ r, t.table.headRec? st = some r →
          (r.state = .running → r.standing = .whole) ∧ (r.state = .paused → r.standing = .void))
      ∧ (s.todo = [.openPeriod] → t.table.heads = s.table.heads ∧ t.table.queues = s.table.queues
          ∧ ∀ k, t.table.rec? k = (s.table.rec? k).map (fun r =>
              if k = s.table.head 6 ∨ k = s.table.head 7 then
                { r with standing := match r.state with
                    | .running => .whole
                    | .paused => .void
                    | .armed | .queued | .held | .ended => r.standing }
              else r))

/-- What the elements request at an opening (R1, R99, R100, R101): each oven element of the head's function 100 slices while the
heat call is on, but none for the rear element with the door open; each grill element of the head's set 20 + 20 n at grill level
n; none without a RUNNING head or an ENDED one with the keep mark. -/
def Obligations.RequestsFollowTheHeads : Prop :=
  ∀ (t : Table) (lines : Lines),
    (∀ g, t.requestStage? Config.OV = some g →
      (∀ e ∈ [0, 1, 2], lines.hcall = false → requestOf t lines e = 0)
      ∧ (lines.door = true → requestOf t lines 2 = 0)
      ∧ (lines.hcall = true → ∀ e ∈ [0, 1], requestOf t lines e =
          if (g.level = 1) ∨ (e = 1 ∧ (g.level = 3 ∨ g.level = 5)) ∨ (e = 0 ∧ g.level = 4) then 100 else 0)
      ∧ (lines.hcall = true → lines.door = false → requestOf t lines 2 = if g.level = 2 ∨ g.level = 5 then 100 else 0))
    ∧ (t.requestStage? Config.OV = none → ∀ e ∈ [0, 1, 2], requestOf t lines e = 0)
    ∧ (∀ g, t.requestStage? Config.GR = some g → requestOf t lines 3 = 20 + 20 * g.level
        ∧ requestOf t lines 4 = if g.full = true then 20 + 20 * g.level else 0)
    ∧ (t.requestStage? Config.GR = none → ∀ e ∈ [3, 4], requestOf t lines e = 0)
    ∧ ∀ st r, t.headRec? st = some r →
        (r.state = .paused ∨ r.state = .held ∨ r.state = .armed ∨ r.state = .queued ∨ (r.state = .ended ∧ r.keep = false) →
          t.requestStage? st = none)
        ∧ (r.state = .running → t.requestStage? st = r.stageAt? r.stage)
        ∧ (r.state = .ended → r.keep = true → t.requestStage? st = r.stageAt? r.stages.length)

/-- Placement takes the five elements in placement order, ascending rank in force and of equal rank ascending index, into a plan
with every entry off (R3, R102). An element is placed by taking, from slice 0 upward, each slice with room for its rating, until it
has as many as it requested (R102, R103): a slice it did not take has no room, or comes after the last of all it requested. -/
def Obligations.PlacementTakesTheFirstSlicesWithRoom : Prop :=
  (∀ (a : Apportioner) (e : Nat), e < a.elements.length → (a.element e).on = [] →
    let b := a.place e
    let x := b.element e
    x.grant = x.on.length ∧ x.on.length ≤ x.request ∧ x.on.Pairwise (· < ·) ∧ x.request = (a.element e).request
    ∧ (a.periodBudget < x.rating → x.on = [] ∧ (x.blocked = true ↔ 0 < x.request))
    ∧ (x.rating ≤ a.periodBudget → x.blocked = false
        ∧ ∀ j, j < 100 → (j ∈ x.on ∧ a.load j + x.rating ≤ a.periodBudget) ∨ (j ∉ x.on ∧ a.periodBudget < a.load j + x.rating)
            ∨ (j ∉ x.on ∧ x.on.length = x.request ∧ ∀ i ∈ x.on, i < j))
    ∧ ∀ f, f ≠ e → b.element f = a.element f)
  ∧ ∀ a : Apportioner, (∀ e, e < 5 → (a.element e).rank ≤ 7) →
    a.placementOrder.Perm [0, 1, 2, 3, 4]
    ∧ a.placementOrder.Pairwise (fun e f => (a.element e).rank < (a.element f).rank
        ∨ ((a.element e).rank = (a.element f).rank ∧ e < f))
    ∧ a.placeAll = a.placementOrder.foldl Apportioner.place
        { a with elements := a.elements.map (fun x => { x with on := [], grant := 0, blocked := false }) }

/-- The Apportioner at slice boundary k inside a period: the slice that ended is counted, and the relays show the entries of slice k
(R104, R105). From slice k on an entry that was on goes off exactly where HCALL was seen deasserting, for the oven's elements, or
DOOR opening, for RE (R106, R109), or where SHED was seen asserting and the load of the elements still on in that slice, up to and
with this one in placement order, exceeds the lowered slice budget: trimming goes from the last in placement order until the load
fits (R112). Entries before k stay, and no slice gains one. This is the Apportioner's whole share at such a boundary, k being 10 times
the second counter plus the slice counter, and the line changes those between its sample and the one before (R4, R82, R84). -/
def Obligations.SliceStepInsideAPeriod : Prop :=
  (∀ (prior : Option Lines) (now : Lines) (k : Nat) (a : Apportioner), 1 ≤ k → a.elements.length = 5 →
    let b := a.sliceStep prior now k
    let on := fun (e j : Nat) => (a.element e).onIn j && !(decide (e < 3) && fell prior now Lines.hcall)
      && !(decide (e = 2) && rose prior now Lines.door)
    b.elements.length = 5 ∧ b.periodBudget = a.periodBudget ∧ b.oven = a.oven ∧ b.grill = a.grill
    ∧ b.budget = a.budget ∧ b.shedBudget = a.shedBudget
    ∧ b.sliceBudget = (if rose prior now Lines.shed = true then min a.sliceBudget a.shedBudget else a.sliceBudget)
    ∧ (∀ e, e < 5 →
        let x := a.element e
        let y := b.element e
        y.delivered = x.delivered + (if x.onIn (k - 1) = true then 1 else 0)
        ∧ y.request = x.request ∧ y.grant = x.grant ∧ y.blocked = x.blocked ∧ y.rating = x.rating ∧ y.rank = x.rank
        ∧ y.relay = y.onIn k ∧ (∀ j, j < k → (j ∈ y.on ↔ j ∈ x.on))
        ∧ ∀ j, k ≤ j → (j ∈ y.on ↔ on e j = true ∧ (rose prior now Lines.shed = true →
            (((a.upTo e).filter (fun f => on f j)).map (fun f => (a.element f).rating)).sum ≤ b.sliceBudget)))
    ∧ (rose prior now Lines.shed = true → ∀ j, k ≤ j → b.load j ≤ b.sliceBudget))
  ∧ ∀ s : State, s.perform .relays = { s with
      app := s.app.sliceStep s.time.prior s.time.lines (10 * s.time.second + s.time.slice) }

/-- SYNC falls when the count reaches 0 at a slice boundary; nothing else changes (R92). At each boundary the count falls by 1 while it
is above 0: the Snapshot Buffer's share of the boundary (R84, R92). -/
def Obligations.SyncFallsAtZero : Prop :=
  (∀ s : State, s.awaits .syncTick = true → s.snap.syncCount = 1 →
    ∃ t, exec .syncFall s = .next t ∧ t.sync = false
      ∧ t = { s with snap := { s.snap with syncCount := 0 }, todo := s.todo.filter (fun w => w != .syncTick) })
  ∧ ∀ s : State, s.perform .syncTick = { s with snap := { s.snap with syncCount := s.snap.syncCount - 1 } }
    ∧ (s.held = false → (s.sync = true ↔ 1 ≤ s.snap.syncCount))

/-- The clock and the start conditions of a second boundary are taken as one event, by the boundary's own row as by the row of a
DELAY or an offset that comes to 0 there: the clock advances, the counts fall, and all records that fall due are placed together in
ascending slot order (R23, R68, R69, R76, R85). So at SECOND_BOUNDARY a count above 1 falls by 1, an AT record whose due instant
equals the reading that the clock comes to falls due and is placed, and any other AT record, and one that waits for a START or on
another record, stays as it is (R67, R68, R69, R75, R76). The note released is the model's own (log 2). -/
def Obligations.CountedStartsFallDue : Prop :=
  (∀ s : State, s.table.Consistent → s.LevelsFollow → s.awaits .clock = true → ∃ t, s.StartsTaken t
    ∧ s.take .clock = t
    ∧ (s.awaits .refresh = false → exec .secondBoundary s = .next t)
    ∧ ∀ k r, s.table.rec? k = some r → s.awaits (.released k) = false → r.state = .armed → r.start.count = 1 →
      (r.start.kind = .delay → exec (.delayDue k) s = .next t)
      ∧ (r.start.kind = .after → r.start.linked = 0 → exec (.offsetDue k) s = .next t))
  ∧ ∀ (s : State) (k : Nat) (r : Record), s.table.Consistent → s.awaits .clock = true → s.table.rec? k = some r →
    r.state = .armed → ∃ t, exec .secondBoundary s = .next t
      ∧ (s.awaits (.released k) = false → 1 < r.start.count →
          r.start.kind = .delay ∨ (r.start.kind = .after ∧ r.start.linked = 0) →
          t.table.rec? k = some { r with start := { r.start with count := r.start.count - 1 } })
      ∧ (s.awaits (.released k) = true → r.start.kind = .after → r.start.linked = 0 → t.table.rec? k = some r)
      ∧ (r.start.kind = .clockTime → r.start.minute * 60 = (s.time.clock + 1) % 86400 → ∃ q, t.table.rec? k = some q
          ∧ ((q.state = .running ∧ q.stage = 1 ∧ t.table.head r.station = k)
            ∨ (q.state = .queued ∧ k ∈ t.table.queue r.station)))
      ∧ (r.start.kind = .clockTime → r.start.minute * 60 ≠ (s.time.clock + 1) % 86400 → t.table.rec? k = some r)
      ∧ (r.start.kind = .manual → t.table.rec? k = some r)
      ∧ (r.start.kind = .after → r.start.linked ≠ 0 → (∀ j ∈ allSlots, s.awaits (.count j) = false) → t.table.rec? k = some r)

/-- A stage with WALL basis that is not the last and has 1 ds left ends at the slice boundary that counts it, and the next stage
begins; on an electric station the elements that leave the set are dropped, from the slice that begins (R45, R51, R43, R106, R107).
The Alert Unit takes it as one event (R121; the mark fresh is the model's own: log 17). -/
def Obligations.WallStageEnds : Prop :=
  ∀ (s : State) (k : Nat) (r : Record) (g : Stage), s.table.Consistent → s.LevelsFollow → s.awaits (.count k) = true →
    s.awaits .closePeriod = false → s.table.rec? k = some r → r.state = .running → r.stageAt? r.stage = some g →
    g.basis = .wall → r.remaining = 1 → r.stage < r.stages.length →
    ∃ t, exec (.stageEnd k) s = .next t ∧ s.StageEnded t k r ∧ t.awaits (.count k) = false ∧ t = s.onRecords t
      ∧ s.app.Dropped t.app (s.leaving t r.station) s.boundarySlice ∧ s.AnnTaken t

/-- The last stage of a record, with WALL basis and 1 ds left, ends the record at the slice boundary that counts it (R27, R45, R52);
where no record waits on it, this says what becomes of its station. The elements that are not in the station's set after the event,
dependents of the record that became head there included, are dropped (R25, R107; that dependents count is the reading of log 19).
The Alert Unit takes it as one event (R121; the mark fresh is the model's own: log 17). -/
def Obligations.WallRecordEnds : Prop :=
  ∀ (s : State) (k : Nat) (r : Record) (g : Stage), s.table.Consistent → s.LevelsFollow → s.awaits (.count k) = true →
    s.awaits .closePeriod = false → s.table.rec? k = some r → r.state = .running → r.stageAt? r.stage = some g →
    g.basis = .wall → r.remaining = 1 → r.stage = r.stages.length →
    ∃ t, exec (.recordEnd k) s = .next t ∧ t.awaits (.count k) = false ∧ t = s.onRecords t
      ∧ (∃ q, t.table.rec? k = some q ∧ q.state = .ended ∧ q.remaining = 0 ∧ q.hasAlert .recordEnd = true)
      ∧ s.app.Dropped t.app (s.leaving t r.station) s.boundarySlice ∧ s.AnnTaken t
      ∧ ((∀ j q, s.table.rec? j = some q → q.waitsOn k = false) → s.RecordEnded t k r)

/-- The end of a record releases every ARMED record that waits on it: one with an offset of 0 is placed at that event, any other
counts its offset (R75). -/
def Obligations.RecordEndReleasesDependents : Prop :=
  ∀ (s : State) (k d : Nat) (r q : Record) (j : Nat), s.table.Consistent → s.table.rec? k = some r → r.state = .running →
    r.stage = r.stages.length → s.table.rec? d = some q → q.waitsOn k = true → d ≠ k →
    ∃ q', (s.endStage k j).table.rec? d = some q' ∧ q'.start.linked = 0 ∧ q'.start.kind = .after
      ∧ (q.start.offset ≠ 0 → q' = { q with start := { q.start with linked := 0, count := q.start.offset } })
      ∧ (q.start.offset = 0 → q'.start.count = 0
          ∧ ((q'.state = .running ∧ (s.endStage k j).table.head q.station = d)
            ∨ (q'.state = .queued ∧ d ∈ (s.endStage k j).table.queue q.station)))

/-- The judgement of a gas station at a slice boundary, short of a flame loss (R13): none while its commanded level is 0; the
grace falls by 1 while it is above 0; then a high flame line clears the count and a low one raises it. The judgement is the Burner
Drive's share of the boundary for that station (R13, R84). -/
def Obligations.FlameIsJudged : Prop :=
  (∀ (s : State) (st : Nat) (r : Record), s.table.headRec? st = some r →
    ((s.burner st).level = 0 → s.judgeStation st = s)
    ∧ ((s.burner st).level ≠ 0 → 0 < r.grace →
        s.judgeStation st = s.modify (s.table.head st) (fun r => { r with grace := r.grace - 1 }))
    ∧ ((s.burner st).level ≠ 0 → r.grace = 0 → s.time.lines.flm.getLsbD st = true →
        s.judgeStation st = s.modify (s.table.head st) (fun r => { r with absent := 0 }))
    ∧ ((s.burner st).level ≠ 0 → r.grace = 0 → s.time.lines.flm.getLsbD st = false → r.absent < 4 →
        s.judgeStation st = s.modify (s.table.head st) (fun r => { r with absent := r.absent + 1 })))
  ∧ ∀ (s : State) (st : Nat), s.perform (.judge st) = s.judgeStation st ∧ (s.table.headRec? st = none → s.judgeStation st = s)

/-- The fifth absent sample is a flame loss: a RUNNING head is HELD, an ENDED one with the keep mark is marked flame-out, the level
falls to 0 and FLAME_LOST is raised; the record keeps its time and stage (R13, R14, R11). The Alert Unit takes it as one event
(R121; the mark fresh is the model's own: log 17). -/
def Obligations.FlameLossIsTaken : Prop :=
  ∀ (s : State) (st : Nat) (r : Record), st < 6 → s.table.Consistent → s.awaits (.judge st) = true →
    (s.burner st).level ≠ 0 → s.table.headRec? st = some r → (r.state = .running ∨ r.state = .ended) →
    r.grace = 0 → r.absent = 4 → s.time.lines.flm.getLsbD st = false →
    ∃ t, exec (.flameLoss st) s = .next t
      ∧ t.table.rec? (s.table.head st) = some { r with
          state := if r.state = .running then .held else .ended
          flameOut := if r.state = .running then r.flameOut else true
          absent := 5, alerts := r.alerts ||| 1#6 }
      ∧ (t.burner st).level = 0 ∧ (t.table.rec? (s.table.head st)).any (fun q => q.hasAlert .flameLost) = true
      ∧ (∀ j, j ≠ s.table.head st → t.table.rec? j = s.table.rec? j)
      ∧ t.table.heads = s.table.heads ∧ t.table.queues = s.table.queues
      ∧ (∀ f, f ≠ st → t.burner f = s.burner f)
      ∧ t = { s with table := t.table, burners := t.burners, ann := t.ann, todo := s.todo.filter (fun w => w != .judge st) }
      ∧ s.AnnTaken t

/-- The sound of the current context at a slice boundary. The sound timer reaches the timeout: the context is muted and BUZ goes
low; it stays current, its alert stays pending, and nothing else changes (R127). Where a preemption at the same boundary came first,
the expiry mutes the new context and leaves the one set aside unmuted (R129; log 33). Short of the timeout the timer rises by 1 and
the pattern phase advances round the cycle of the captured priority; a muted context counts nothing (R126, R127). A context that
started sounding in the work of this boundary waits for the next (log 17). BUZ is high in the phases of the pattern, and low while
the context is muted or there is none (R126). All this is the Alert Unit's share of the boundary (R84). -/
def Obligations.SoundTimeoutMutes : Prop :=
  (∀ (s : State) (c : Context), s.Settled → s.awaits .alertTick = true → s.ann.current = some c → c.muted = false →
    s.ann.fresh = false → 10 * s.settings.value Config.soundId ≤ s.ann.timer + 1 →
    ∃ t, exec .soundTimeout s = .next t ∧ t.buz = false
      ∧ t = { s with
          ann := { s.ann with current := some { c with muted := true }, timer := s.ann.timer + 1, ousted := none }
          todo := s.todo.filter (fun w => w != .alertTick) })
  ∧ (∀ (s : State) (c : Context) (n : Nat), s.Settled → s.awaits .alertTick = true → s.ann.current = some c → c.muted = false →
    s.ann.fresh = true → s.ann.ousted = some n → 10 * s.settings.value Config.soundId ≤ n + 1 →
    ∃ t, exec .soundTimeout s = .next t ∧ t.buz = false
      ∧ t = { s with
          ann := { s.ann with current := some { c with muted := true }, ousted := none }
          todo := s.todo.filter (fun w => w != .alertTick) })
  ∧ (∀ (u : SettingsUnit) (a : Annunciator) (slot : Nat) (kind : AlertKind) (c : Context), a.current = some c → c.muted = false →
    a.fresh = false → a.ousted = none → c.priority < u.priority kind → ¬(c.slot = slot ∧ c.kind = kind) →
    (a.evaluate u (some (slot, kind))).ousted = some a.timer)
  ∧ (∀ s : State, s.perform .alertTick = s.alertTick)
  ∧ (∀ (s : State) (c : Context), s.ann.current = some c → s.ann.ousted = none →
    (c.muted = true ∨ s.ann.fresh = true → s.alertTick = s)
    ∧ (c.muted = false → s.ann.fresh = false → s.ann.timer + 1 < 10 * s.settings.value Config.soundId →
        s.alertTick = { s with ann := { s.ann with
          timer := s.ann.timer + 1
          phase := (s.ann.phase + 1) % (if 12 ≤ c.priority then 4 else if 6 ≤ c.priority then 50 else 100) } }))
  ∧ ∀ s : State, (s.buz = true ↔ s.held = false ∧ ∃ c, s.ann.current = some c ∧ c.muted = false
      ∧ (s.ann.phase = 0 ∨ s.ann.phase = 1
        ∨ (6 ≤ c.priority ∧ c.priority ≤ 11 ∧ (s.ann.phase = 4 ∨ s.ann.phase = 5 ∨ s.ann.phase = 8 ∨ s.ann.phase = 9))))

/-- The Record Engine's work on a record at a boundary that does not end its stage. A record that is not RUNNING loses nothing
(R45). A PARTIAL count of an electric record rises by 1 (R46). A WALL stage loses 1 ds, on gas and electric stations alike (R45). A
COMPENSATED stage loses nothing at a slice boundary inside a period; at a period boundary an electric record's starvation is
counted, as PeriodFiguresReachTheRecord gives it, and a COMPENSATED stage takes the period's credit, none for VOID (R48, R49, R50).
Where time was taken or credited, the reminder may be raised (R56). No other record, head or queue changes, and no other block but
the Alert Unit. The Alert Unit takes it as one event (R121; the mark fresh is the model's own: log 17). -/
def Obligations.WallStageCounts : Prop :=
  ∀ (s : State) (k : Nat) (r : Record), s.table.rec? k = some r → s.perform (.count k) = s.countRecord k
    ∧ (r.state ≠ .running → s.countRecord k = s)
    ∧ ∀ g, r.state = .running → r.stageAt? r.stage = some g →
      let t := s.countRecord k
      let period := decide (s.time.slice = 0) && decide (s.time.second = 0)
      let f := if r.station = 6 then s.app.oven else s.app.grill
      let risen : Record := if 6 ≤ r.station then
        { r with standing := match r.standing with
            | .part n => .part (n + 1)
            | .whole => .whole
            | .void => .void } else r
      let judged := if 6 ≤ r.station ∧ period = true then risen.countStarvation (s.settings.value Config.starvationId) f
        else risen
      let credit := match r.standing with
        | .void => 0
        | .part n => 1000 * (n + 1)
        | .whole => if f.requested = 0 then 100000 else 100000 * f.delivered / f.requested
      let reminded := fun q : Record =>
        if q.reminderDone = false ∧ q.reminder.any (fun n => decide (q.total ≤ 10 * n)) = true
          then { q with reminderDone := true, alerts := q.alerts ||| 32#6 } else q
      let alone := t.table.heads = s.table.heads ∧ t.table.queues = s.table.queues
        ∧ (∀ j, j ≠ k → t.table.rec? j = s.table.rec? j) ∧ t = { s with table := t.table, ann := t.ann } ∧ s.AnnTaken t
      (g.basis = .wall → 1 < r.remaining →
          t.table.rec? k = some (reminded { judged with remaining := r.remaining - 1 }) ∧ alone)
      ∧ (g.basis = .compensated → ¬(6 ≤ r.station ∧ period = true) ∨ r.standing = .void →
          t.table.rec? k = some judged ∧ alone)
      ∧ (g.basis = .compensated → 6 ≤ r.station → period = true → r.standing ≠ .void → r.acc + credit < 1000 * r.remaining →
          t.table.rec? k = some (reminded { judged with
            acc := (r.acc + credit) % 1000, remaining := r.remaining - (r.acc + credit) / 1000 }) ∧ alone)

/-- The closing of a period counts slice 99 and forms for each electric station the requested and the delivered energy: the sums
over its elements of request, and of delivered slices, times rating (R47, R97, R105). The credit of a COMPENSATED stage at a period
boundary: none for VOID, 1,000 a counted slice for PARTIAL, the delivered share of 100,000 for WHOLE, taken in whole deciseconds
through the accumulator (R47, R48, R49). And starvation (R54, R55): a WHOLE record whose station got less than half of what it
requested counts up to 60, otherwise the counter returns to 0; STARVED is raised once, when the counter stands at the limit or above
with the flag clear; a record of another standing keeps its counter. A COMPENSATED stage whose credit covers the time it has left
ends at the period boundary: the next stage begins, or the record ends (R49, R51, R52); a PARTIAL count has risen there before
(R46). The elements that are not in the station's set after the event, dependents of the record that became head there included, are
dropped (R25, R107; that dependents count is the reading of log 19). -/
def Obligations.PeriodFiguresReachTheRecord : Prop :=
  (∀ a : Apportioner, a.elements.length = 5 →
    let b := a.close
    let delivered := fun e => (a.element e).delivered + (if (a.element e).onIn 99 = true then 1 else 0)
    let rating := fun e => (a.element e).rating
    let request := fun e => (a.element e).request
    b.oven = ⟨request 0 * rating 0 + request 1 * rating 1 + request 2 * rating 2,
      delivered 0 * rating 0 + delivered 1 * rating 1 + delivered 2 * rating 2⟩
    ∧ b.grill = ⟨request 3 * rating 3 + request 4 * rating 4, delivered 3 * rating 3 + delivered 4 * rating 4⟩
    ∧ (∀ e, e < 5 → b.element e = { a.element e with delivered := delivered e })
    ∧ b = { a with elements := b.elements, oven := b.oven, grill := b.grill }
    ∧ ∀ s : State, s.app = a → s.perform .closePeriod = { s with app := b })
  ∧ (∀ (f : Figures) (r : Record) (g : Stage), r.stageAt? r.stage = some g → g.basis = .compensated →
    (r.standing = .void → r.loseTime true f = (r, false))
    ∧ (∀ n, r.standing = .part n → r.loseTime true f =
        ({ r with acc := (r.acc + 1000 * n) % 1000, remaining := r.remaining - (r.acc + 1000 * n) / 1000 }, true))
    ∧ (r.standing = .whole → f.requested = 0 → r.loseTime true f =
        ({ r with acc := (r.acc + 100000) % 1000, remaining := r.remaining - (r.acc + 100000) / 1000 }, true))
    ∧ (r.standing = .whole → 0 < f.requested → r.loseTime true f =
        ({ r with
            acc := (r.acc + 100000 * f.delivered / f.requested) % 1000
            remaining := r.remaining - (r.acc + 100000 * f.delivered / f.requested) / 1000 }, true))
    ∧ r.loseTime false f = (r, false))
  ∧ (∀ (limit : Nat) (f : Figures) (r : Record),
    (r.standing ≠ .whole → r.countStarvation limit f = r)
    ∧ (r.standing = .whole →
        let n := if 0 < f.requested ∧ 2 * f.delivered < f.requested then min 60 (r.starve + 1) else 0
        (limit ≤ n → r.starvedRaised = false →
          r.countStarvation limit f = { r with starve := n, starvedRaised := true, alerts := r.alerts ||| 4#6 })
        ∧ (n < limit ∨ r.starvedRaised = true → r.countStarvation limit f = { r with starve := n })))
  ∧ ∀ (s : State) (k : Nat) (r : Record) (g : Stage), s.table.Consistent → s.LevelsFollow → s.awaits (.count k) = true →
    s.awaits .closePeriod = false → s.time.slice = 0 → s.time.second = 0 → s.table.rec? k = some r → r.state = .running →
    6 ≤ r.station → r.stageAt? r.stage = some g → g.basis = .compensated →
    let f := if r.station = 6 then s.app.oven else s.app.grill
    let credit := match r.standing with
      | .void => 0
      | .part n => 1000 * (n + 1)
      | .whole => if f.requested = 0 then 100000 else 100000 * f.delivered / f.requested
    r.standing ≠ .void → 1000 * r.remaining ≤ r.acc + credit →
    (r.stage < r.stages.length → ∃ t, exec (.stageEnd k) s = .next t ∧ s.StageEnded t k r ∧ t.awaits (.count k) = false
      ∧ t = s.onRecords t ∧ s.app.Dropped t.app (s.leaving t r.station) s.boundarySlice)
    ∧ (r.stage = r.stages.length → ∃ t, exec (.recordEnd k) s = .next t ∧ t.awaits (.count k) = false ∧ t = s.onRecords t
      ∧ (∃ q, t.table.rec? k = some q ∧ q.state = .ended ∧ q.remaining = 0 ∧ q.hasAlert .recordEnd = true)
      ∧ s.app.Dropped t.app (s.leaving t r.station) s.boundarySlice
      ∧ ((∀ j q, s.table.rec? j = some q → q.waitsOn k = false) → s.RecordEnded t k r))

/-- The total remaining time of a record by its state; it is what the reminder threshold is compared with, what QUERY reports, and
what the snapshot shows in seconds rounded up (R44, R56, R89, R184). -/
def Obligations.TotalRemainingTime : Prop :=
  ∀ r : Record,
    ((r.state = .armed ∨ r.state = .queued → r.total = (r.stages.map Stage.duration).sum)
    ∧ (r.state = .running ∨ r.state = .paused ∨ r.state = .held →
        r.total = r.remaining + ((r.stages.drop r.stage).map Stage.duration).sum)
    ∧ (r.state = .ended → r.total = 0))
    ∧ (r.reminderDue = true ↔ r.state = .running ∧ r.reminderDone = false ∧ ∃ n, r.reminder = some n ∧ r.total ≤ 10 * n)
    ∧ (∀ k reading, ((r.queryBytes k reading).drop 21).take 3 = leBytes 3 r.total)
    ∧ ∀ k reading, (Entry.ofRecord reading k r).total = (r.total + 9) / 10

/-- The best alert over the visible stations is the pending one of the highest priority of 1 or more, of equal priority the one of
the lowest slot, and then the first in kind order; none where no such alert is pending (R119). An evaluation against it (R122):
nothing without one; with no current context the best alert becomes current; nothing where it is the current alert or its priority
is at most the captured one; otherwise the current context is pushed, a saved context of the best alert having been taken out and
the oldest of three dropped. What becomes current newly is unmuted and starts sounding from 0; the marks that it did so, and of the
timer set aside where no sounding context was, are the model's (log 17, log 33). Before the evaluation of an event the contexts of
alerts that are cleared, or whose kind has priority 0, go, the saved ones that stay keeping their order; where the current context
goes, the top surviving saved one becomes current with its captured priority and saved muted flag, timer and phase from 0, or there
is none (R121, R123, R124, R125). -/
def Obligations.EvaluationFollowsItsTable : Prop :=
  (∀ (t : Table) (u : SettingsUnit) (visible : Nat → Bool),
    (bestAlert t u visible = none ↔ ∀ a, ¬t.waits u visible a)
    ∧ ∀ a, bestAlert t u visible = some a ↔ t.waits u visible a ∧ ∀ b, t.waits u visible b → u.prefers a b)
  ∧ (∀ (u : SettingsUnit) (a : Annunciator),
    a.evaluate u none = a
    ∧ ∀ slot kind, let formed : Context := ⟨slot, kind, u.priority kind, false⟩
      (a.current = none → a.evaluate u (some (slot, kind)) =
        { a with current := some formed, timer := 0, phase := 0, fresh := true, ousted := none })
      ∧ ∀ c, a.current = some c →
        (c.slot = slot → c.kind = kind → a.evaluate u (some (slot, kind)) = a)
        ∧ (u.priority kind ≤ c.priority → a.evaluate u (some (slot, kind)) = a)
        ∧ (¬(c.slot = slot ∧ c.kind = kind) → c.priority < u.priority kind →
            let t := a.evaluate u (some (slot, kind))
            t = { current := some formed, timer := 0, phase := 0, fresh := true
                  stack := c :: (a.stack.filter (fun d => !(decide (d.slot = slot) && decide (d.kind = kind)))).take 2
                  ousted := t.ousted }
            ∧ (c.muted = true → t.ousted = a.ousted)))
  ∧ ∀ s : State,
    let alive := fun c : Context => (s.table.rec? c.slot).any (fun r => r.hasAlert c.kind) && decide (1 ≤ s.settings.priority c.kind)
    let saved := s.ann.stack.filter alive
    ∃ kept : Annunciator, s.settle = { s with
        ann := kept.evaluate s.settings (bestAlert s.table s.settings (fun _ => true)) }
      ∧ (s.ann.current = none → kept = { s.ann with stack := saved })
      ∧ ∀ c, s.ann.current = some c →
        (alive c = true → kept = { s.ann with stack := saved })
        ∧ (alive c = false →
            (saved = [] → kept =
              { current := none, stack := [], timer := 0, phase := 0, fresh := false, ousted := none })
            ∧ ∀ d rest, saved = d :: rest → kept =
              { current := some d, stack := rest, timer := 0, phase := 0, fresh := !d.muted, ousted := none })

/-- PATTN and RATTN are asserted while a pending alert of any station, or of a station the remote port may view, has a priority of 1
or more; they are off while RESETn is low, after power-on and after a SOFT RESET's effect, and the annunciator has no part in them
(R130). READY is asserted exactly while the panel reply queue holds a reply; it is low while RESETn is low and after power-on, and
asserted at the end of a SOFT RESET, whose own reply is then queued (R162). -/
def Obligations.SignallingLinesFollowTheState : Prop :=
  (∀ s : State, s.held = false →
    (s.pattn = true ↔ ∃ k ∈ allSlots, ∃ r, s.table.rec? k = some r
      ∧ ∃ kind, r.hasAlert kind = true ∧ 1 ≤ s.settings.priority kind)
    ∧ (s.rattn = true ↔ ∃ k ∈ allSlots, ∃ r, s.table.rec? k = some r ∧ 1 ≤ s.settings.permission r.station
      ∧ ∃ kind, r.hasAlert kind = true ∧ 1 ≤ s.settings.priority kind))
  ∧ (∀ s : State, s.held = true → s.pattn = false ∧ s.rattn = false)
  ∧ (∀ radr status landed (s t : State), exec (.powerOn radr status landed) s = .next t → t.pattn = false ∧ t.rattn = false)
  ∧ (∀ s : State, s.softReset.pattn = false ∧ s.softReset.rattn = false)
  ∧ (∀ (s : State) (a : Annunciator), (s.withAnn a).pattn = s.pattn ∧ (s.withAnn a).rattn = s.rattn)
  ∧ (∀ s : State, s.held = false → (s.ready = true ↔ s.panel.replies ≠ []))
  ∧ (∀ s : State, s.held = true → s.ready = false)
  ∧ (∀ radr status landed (s t : State), exec (.powerOn radr status landed) s = .next t → t.ready = false)
  ∧ ∀ (s t : State) (bytes : List Byte), s.held = false → s.Takes .panel 0x61 bytes → exec .softReset s = .next t →
      t.ready = true

/-! ### The Command Unit -/

/-- The arbiter (R137): a port is eligible when a command waits and a reply has room; of two eligible ports the one not served
last is taken, an eligible port alone is taken, and with none the Command Unit waits. A taken command, accepted or refused, is the
oldest of its port and makes it the last port served. After power-on the last port served is the remote port. -/
def Obligations.ArbiterChoosesAPort : Prop :=
  (∀ s : State,
    let panel := s.panel.commands ≠ [] ∧ s.panel.replies.length < 8
    let remote := s.remote.commands ≠ [] ∧ s.remote.replies.length < 4
    (panel → ¬remote → s.chosen = s.panel.commands.head?.map (fun b => (Port.panel, b)))
    ∧ (¬panel → remote → s.chosen = s.remote.commands.head?.map (fun b => (Port.remote, b)))
    ∧ (panel → remote → s.lastServed = .remote → s.chosen = s.panel.commands.head?.map (fun b => (Port.panel, b)))
    ∧ (panel → remote → s.lastServed = .panel → s.chosen = s.remote.commands.head?.map (fun b => (Port.remote, b)))
    ∧ (¬panel → ¬remote → s.chosen = none))
  ∧ (∀ (c : Instr) (code : Nat) (s : State), commandCode c = some code →
      (s.chosen = none → exec c s = .next s)
      ∧ ∀ p bytes, s.chosen = some (p, bytes) → codeOf? bytes = some code →
          ∃ t, exec c s = .next t ∧ t.lastServed = p
            ∧ (c ≠ .softReset → t.commands p = (s.commands p).tail))
  ∧ ∀ radr status landed (s t : State), exec (.powerOn radr status landed) s = .next t → t.lastServed = .remote

/-- Every command of the twenty-two that is taken yields one reply: a refused one changes no state but its own answer, an accepted
one is answered OK, and a SOFT RESET flushes the queues before its own reply (R135, R139, R157). What an answer does to the ports:
the oldest command leaves its queue, one reply with the command's tag (0x00 for a command without bytes) stands at the tail of the
same port's replies, and nothing else changes (R136, R137). -/
def Obligations.ATakenCommandIsAnsweredOnce : Prop :=
  (∀ (c : Instr) (code : Nat) (s : State) (p : Port) (bytes : List Byte), commandCode c = some code →
    s.chosen = some (p, bytes) → codeOf? bytes = some code →
    ∃ t, exec c s = .next t
      ∧ ((∃ rc, rc ≠ .ok ∧ t = s.answered p bytes rc [])
        ∨ ∃ data, t.replies p = (if c = .softReset then [] else s.replies p) ++ [{ tag := tagOf bytes, code := .ok, data := data }]
            ∧ (c ≠ .softReset → t.commands p = (s.commands p).tail ∧ t.commands p.other = s.commands p.other
                ∧ t.replies p.other = s.replies p.other)))
  ∧ ∀ (s : State) (p : Port) (bytes : List Byte) (code : ResultCode) (data : List Byte),
    let t := s.answered p bytes code data
    t.commands p = (s.commands p).tail
    ∧ t.replies p = s.replies p ++ [{ tag := bytes.headD 0#8, code := code, data := data }]
    ∧ t.commands p.other = s.commands p.other ∧ t.replies p.other = s.replies p.other ∧ t.lastServed = p
    ∧ t = { s with
        panel := { s.panel with commands := t.panel.commands, replies := t.panel.replies }
        remote := { s.remote with commands := t.remote.commands, replies := t.remote.replies }
        lastServed := p }

/-- The refusals of R139 in order, CREATE's own being in CreateWritesTheRecord and SILENCE's in SilenceMutesTheContext. During the
start-up load every command is answered NOT_READY (R140); then an unknown code is answered BAD_COMMAND and a command without a code
BAD_FRAME; then a known code in a frame of another length BAD_FRAME (R141, R182); then a command that the remote port may not send
DENIED (R148), and during a store SET ITEM, GRANT and STORE SETTINGS BUSY (R142); then a parameter out of its range BAD_PARAM
(R143), GRANT's station and permission (R149) and SET ITEM's id and value included, Bs being checked against the working B (R172);
then a slot that is EMPTY, or on a station withheld from the remote port, NO_RECORD (R143, R145); then a remote command that would
change a record under VIEW, or that the gas limits shut out, DENIED (R145, R146); then a record in a state in which the command does
not act WRONG_STATE; then a remote RETIRE, SKIP or SET CLOCK that would start a gas record DENIED (R147). -/
def Obligations.TheFirstFailedCheckAnswers : Prop :=
  ∀ (c : Instr) (s : State) (p : Port) (bytes : List Byte), s.chosen = some (p, bytes) →
    (∀ code, commandCode c = some code → codeOf? bytes = some code →
      (s.loading = true → exec c s = .next (s.answered p bytes .notReady []))
      ∧ (s.loading = false → lengthOk code bytes = false → exec c s = .next (s.answered p bytes .badFrame [])))
    ∧ (∀ code, codeOf? bytes = some code → code ≠ 0x10 → parameterBytes code = none →
        exec .badCommand s = .next (s.answered p bytes (if s.loading = true then .notReady else .badCommand) []))
    ∧ (bytes.length ≤ 1 →
        exec .commandWithoutCode s = .next (s.answered p bytes (if s.loading = true then .notReady else .badFrame) []))
    ∧ (∀ code, commandCode c = some code → s.Takes p code bytes →
      (p = .remote → code ∈ [0x41, 0x50, 0x52, 0x60, 0x61, 0x62] → exec c s = .next (s.answered p bytes .denied []))
      ∧ (p = .panel → code ∈ [0x50, 0x52, 0x60] → s.settings.storing = true → exec c s = .next (s.answered p bytes .busy []))
      ∧ (code ∈ [0x11, 0x12, 0x13, 0x14, 0x15, 0x16, 0x17, 0x20, 0x31] → field bytes 2 1 = 0 ∨ 48 < field bytes 2 1 →
          exec c s = .next (s.answered p bytes .badParam []))
      ∧ ((code = 0x14 ∧ (signedField bytes 3 < -86399 ∨ 86399 < signedField bytes 3))
          ∨ (code = 0x15 ∧ field bytes 3 2 = 0) ∨ (code = 0x31 ∧ 5 < field bytes 3 1) ∨ (code = 0x21 ∧ 7 < field bytes 2 1)
          ∨ (code = 0x40 ∧ (23 < field bytes 2 1 ∨ 59 < field bytes 3 1 ∨ 59 < field bytes 4 1))
          ∨ (code = 0x51 ∧ ∀ it ∈ Config.items, field bytes 2 2 ≠ it.id)
          ∨ (p = .panel ∧ code = 0x62 ∧ 7 < field bytes 2 1)
          ∨ (p = .panel ∧ code = 0x60 ∧ s.settings.storing = false ∧ (7 < field bytes 2 1 ∨ 2 < field bytes 3 1))
          ∨ (p = .panel ∧ code = 0x50 ∧ s.settings.storing = false ∧ ∀ it ∈ Config.items, field bytes 2 2 = it.id →
              field bytes 4 4 < it.low ∨ it.high < field bytes 4 4 ∨ field bytes 4 4 % it.step ≠ 0
                ∨ (it.id = 0x31 ∧ s.settings.value 0x30 < field bytes 4 4))
          ∨ (p = .panel ∧ code = 0x41 ∧ ¬(1 ≤ field bytes 2 1 ∧ field bytes 2 1 ≤ field bytes 3 1 ∧ field bytes 3 1 ≤ 48)) →
          exec c s = .next (s.answered p bytes .badParam [])))
    ∧ (∀ code, commandCode c = some code → s.Takes p code bytes → 1 ≤ field bytes 2 1 → field bytes 2 1 ≤ 48 →
      code ∈ [0x11, 0x12, 0x13, 0x14, 0x15, 0x16, 0x17, 0x20, 0x31] →
      (code = 0x14 → -86399 ≤ signedField bytes 3 ∧ signedField bytes 3 ≤ 86399) → (code = 0x15 → field bytes 3 2 ≠ 0) →
      (code = 0x31 → field bytes 3 1 ≤ 5) →
      let k := field bytes 2 1
      let clamp := fun ds : Nat => (max (10 : Int) (min 863990 ((ds : Int) + 10 * signedField bytes 3))).toNat
      (s.table.rec? k = none ∨ (p = .remote ∧ ∃ r, s.table.rec? k = some r ∧ s.settings.permission r.station = 0) →
          exec c s = .next (s.answered p bytes .noRecord []))
      ∧ ∀ r, s.table.rec? k = some r → (code = 0x15 → r.station = 7 → field bytes 3 1 ≠ 0) →
        let shown := if r.state = .armed ∨ r.state = .queued then 1 else if r.state = .ended then r.stages.length else r.stage
        (p = .remote → s.settings.permission r.station = 1 → code ≠ 0x20 → exec c s = .next (s.answered p bytes .denied []))
        ∧ (p = .remote → s.settings.permission r.station = 2 → r.station < 6 →
            code = 0x13 ∨ code = 0x16 ∨ code = 0x17
            ∨ (code = 0x14 ∧ (0 < signedField bytes 3
                ∨ ((r.state = .running ∨ r.state = .paused ∨ r.state = .held) ∧ r.remaining < clamp r.remaining)
                ∨ ((r.state = .armed ∨ r.state = .queued) ∧ ∃ g rest, r.stages = g :: rest ∧ g.duration < clamp g.duration)))
            ∨ (code = 0x15 ∧ (r.state ≠ .ended ∨ r.keep = true)
                ∧ ∃ g, r.stageAt? shown = some g ∧ g.level < min 9 (field bytes 3 2)) →
            exec c s = .next (s.answered p bytes .denied []))
        ∧ (p = .panel ∨ (s.settings.permission r.station = 2 ∧ 6 ≤ r.station) →
            (code = 0x16 ∧ r.state ≠ .running)
            ∨ (code = 0x13 ∧ r.state ≠ .paused ∧ r.state ≠ .held ∧ ¬(r.state = .ended ∧ r.keep = true ∧ r.flameOut = true))
            ∨ (code = 0x17 ∧ r.state ≠ .armed) →
            exec c s = .next (s.answered p bytes .wrongState []))
        ∧ (p = .panel ∨ s.settings.permission r.station = 2 →
            (code = 0x12 ∧ r.state ≠ .running) ∨ (code = 0x15 ∧ r.state = .ended ∧ r.keep = false)
            ∨ (code = 0x14 ∧ r.state = .ended ∧ (p = .remote → r.station < 6 → signedField bytes 3 ≤ 0)) →
            exec c s = .next (s.answered p bytes .wrongState []))
        ∧ (p = .remote → s.settings.permission r.station = 2 →
            (code = 0x11 ∧ r.station < 6 ∧ s.table.head r.station = k ∧ s.table.queue r.station ≠ [])
            ∨ (code = 0x16 ∧ 6 ≤ r.station ∧ r.state = .running ∧ r.stages.length ≤ r.stage
                ∧ ∃ d ∈ allSlots, ∃ q, s.table.rec? d = some q ∧ q.waitsOn k = true ∧ q.station < 6 ∧ q.start.offset = 0) →
            exec c s = .next (s.answered p bytes .denied [])))
    ∧ (let new := 3600 * field bytes 2 1 + 60 * field bytes 3 1 + field bytes 4 1
       let span := (new + 86400 - s.time.clock) % 86400
       p = .remote → s.Takes p 0x40 bytes → field bytes 2 1 ≤ 23 → field bytes 3 1 ≤ 59 → field bytes 4 1 ≤ 59 →
        s.time.valid = true → 1 ≤ span → span ≤ 43200 →
        (∃ k ∈ allSlots, ∃ r, s.table.rec? k = some r ∧ r.state = .armed ∧ r.start.kind = .clockTime ∧ r.station < 6
          ∧ clockCountdown s.time.clock r.start.minute ≤ span) →
        exec .setClock s = .next (s.answered p bytes .denied []))

/-- An accepted CREATE that is not due writes its record ARMED into the lowest EMPTY slot, and nothing else changes but the answer,
which names the slot and the state (R18, R19, R20, R64, R150, R151). The period standing of a record that has not started, and FULL
cleared off the grill, are the model's choices (log 22, log 16). What the checks are, and the refusals, in their order: BAD_PARAM
for the station, reminder, stage count, stages and start condition (R65, R150), DENIED for the remote port (R145, R146), NO_CLOCK
(R69), NO_RECORD (R73), CHAIN_TOO_DEEP, a depth counting the links back (R74), NO_SLOT, STATION_FULL (R18). Stage fields are clamped
as R41, R42 and R151 say. -/
def Obligations.CreateWritesTheRecord : Prop :=
  (∀ (s : State) (p : Port) (bytes : List Byte) (c : CreateParams) (sc : StartCondition) (k : Nat),
    s.table.slots.length = 48 → s.Takes p 0x10 bytes →
    parseCreate bytes = some c → c.acceptable = true → c.start? = some sc →
    s.fullAccess p c.station = true → (p = .remote → isGas c.station = false) →
    (sc.kind = .clockTime → s.time.valid = true) →
    (sc.kind = .after → ∃ q, s.table.rec? sc.linked = some q ∧ portViews s.settings p q.station = true
      ∧ 1 + s.table.depth 5 sc.linked < 5) →
    s.table.free? = some k → s.table.stationCount c.station < 6 → s.table.dueAtCreate sc = false →
    exec .create s = .next { s.answered p bytes .ok [byteOf k, 1#8] with
      table := s.table.put k (some {
        station := c.station, origin := p, state := .armed
        start := if s.table.linkedEnded sc = true then { sc with linked := 0, count := sc.offset } else sc
        detached := false, stages := c.stages.map (RawStage.stored c.station), stage := 0, remaining := 0, acc := 0
        starve := 0, starvedRaised := false, reminder := if c.reminder = 0 then none else some c.reminder
        reminderDone := false, standing := .part 0, grace := 0, absent := 0, flameOut := false, keep := false
        alerts := 0#6 }) }
    ∧ s.table.rec? k = none ∧ 1 ≤ k ∧ k ≤ 48 ∧ ∀ j, 1 ≤ j → j < k → s.table.rec? j ≠ none)
  ∧ (∀ c : CreateParams,
    (c.acceptable = true ↔ c.station ≤ 7 ∧ c.reminder ≤ 3600 ∧ 1 ≤ c.stages.length ∧ c.stages.length ≤ 8
      ∧ ∀ g ∈ c.stages, g.level ≠ 0 ∧ g.seconds ≠ 0 ∧ (c.station = 6 → g.level ≤ 6) ∧ (c.station < 6 → g.compensated = false)
        ∧ (c.station ≠ 6 → g.setpoint = none))
    ∧ (c.start? = none ↔ (c.kind = 2 ∧ (field c.start 0 3 = 0 ∨ 86399 < field c.start 0 3)) ∨ (c.kind = 3 ∧ 1439 < field c.start 0 2)
      ∨ (c.kind = 4 ∧ (field c.start 0 1 = 0 ∨ 48 < field c.start 0 1 ∨ 600 < field c.start 1 2)) ∨ 4 < c.kind)
    ∧ ∀ sc, c.start? = some sc →
      (c.kind = 0 → sc = ⟨.now, 0, 0, 0, 0⟩) ∧ (c.kind = 1 → sc = ⟨.manual, 0, 0, 0, 0⟩)
      ∧ (c.kind = 2 → sc = ⟨.delay, field c.start 0 3, 0, 0, 0⟩) ∧ (c.kind = 3 → sc = ⟨.clockTime, 0, field c.start 0 2, 0, 0⟩)
      ∧ (c.kind = 4 → sc = ⟨.after, 0, 0, field c.start 0 1, field c.start 1 2⟩))
  ∧ (∀ (st : Nat) (g : RawStage), g.stored st =
      { level := if st < 6 then min 9 g.level else if st = 7 then min 4 g.level else g.level
        full := g.full && decide (st = 7)
        setpoint := g.setpoint.map (fun v => 5 * ((max 30 (min 300 v) + 2) / 5))
        duration := min 863990 (10 * g.seconds)
        basis := if g.compensated = true then .compensated else .wall
        second := g.second })
  ∧ (∀ (t : Table) (k : Nat) (r : Record), t.Consistent → t.rec? k = some r →
      t.depth 5 k = if r.holdsLink = true then 1 + t.depth 5 r.start.linked else 0)
  ∧ ∀ (s : State) (p : Port) (bytes : List Byte) (c : CreateParams), s.Takes p 0x10 bytes → parseCreate bytes = some c →
    (c.acceptable = false ∨ c.start? = none → exec .create s = .next (s.answered p bytes .badParam []))
    ∧ ∀ sc, c.acceptable = true → c.start? = some sc →
      (p = .remote → s.settings.permission c.station ≠ 2 ∨ c.station < 6 → exec .create s = .next (s.answered p bytes .denied []))
      ∧ ((p = .remote → s.settings.permission c.station = 2 ∧ 6 ≤ c.station) →
        (sc.kind = .clockTime → s.time.valid = false → exec .create s = .next (s.answered p bytes .noClock []))
        ∧ (sc.kind = .after → s.table.rec? sc.linked = none
            ∨ (p = .remote ∧ ∃ q, s.table.rec? sc.linked = some q ∧ s.settings.permission q.station = 0) →
            exec .create s = .next (s.answered p bytes .noRecord []))
        ∧ (∀ q, sc.kind = .after → s.table.rec? sc.linked = some q → (p = .remote → s.settings.permission q.station ≠ 0) →
            4 ≤ s.table.depth 5 sc.linked → exec .create s = .next (s.answered p bytes .chainTooDeep []))
        ∧ ((sc.kind = .clockTime → s.time.valid = true) →
            (sc.kind = .after → ∃ q, s.table.rec? sc.linked = some q ∧ (p = .remote → s.settings.permission q.station ≠ 0)
              ∧ s.table.depth 5 sc.linked < 4) →
            ((∀ k, 1 ≤ k → k ≤ 48 → s.table.rec? k ≠ none) → exec .create s = .next (s.answered p bytes .noSlot []))
            ∧ (∀ k, 1 ≤ k → k ≤ 48 → s.table.rec? k = none → 6 ≤ s.table.stationCount c.station →
                exec .create s = .next (s.answered p bytes .stationFull []))))

/-- A CREATE with NOW, a CREATE with AFTER and offset 0 on a record that has ended, and a START place their record at their own
event (R20, R23, R66, R73, R79). -/
def Obligations.CreateNowAndStartPlaceTheRecord : Prop :=
  (∀ (s : State) (p : Port) (bytes : List Byte) (c : CreateParams) (k : Nat),
    s.table.Consistent → s.LevelsFollow → s.Takes p 0x10 bytes →
    parseCreate bytes = some c → c.acceptable = true → c.kind = 0 →
    s.fullAccess p c.station = true → (p = .remote → isGas c.station = false) →
    s.table.free? = some k → s.table.stationCount c.station < 6 →
    ∃ t r, exec .create s = .next t ∧ r.station = c.station ∧ r.origin = p
      ∧ r.stages = c.stages.map (RawStage.stored c.station) ∧ r.alerts = 0#6 ∧ r.start.kind = .now
      ∧ s.Placed t k r
      ∧ t = { s.answered p bytes .ok (byteOf k :: t.stateByteOf k) with table := t.table, burners := t.burners })
  ∧ (∀ (s : State) (p : Port) (bytes : List Byte) (c : CreateParams) (q : Record) (k : Nat),
    s.table.Consistent → s.LevelsFollow → s.Takes p 0x10 bytes →
    parseCreate bytes = some c → c.acceptable = true → c.kind = 4 → field c.start 1 2 = 0 →
    s.fullAccess p c.station = true → (p = .remote → isGas c.station = false) →
    s.table.rec? (field c.start 0 1) = some q → q.state = .ended → portViews s.settings p q.station = true →
    s.table.free? = some k → s.table.stationCount c.station < 6 →
    ∃ t r, exec .create s = .next t ∧ r.station = c.station ∧ r.origin = p
      ∧ r.stages = c.stages.map (RawStage.stored c.station) ∧ r.alerts = 0#6 ∧ r.start.kind = .after
      ∧ s.Placed t k r
      ∧ t = { s.answered p bytes .ok (byteOf k :: t.stateByteOf k) with table := t.table, burners := t.burners })
  ∧ ∀ (s : State) (p : Port) (bytes : List Byte) (r : Record),
    s.table.Consistent → s.LevelsFollow → s.Takes p 0x17 bytes → s.Reaches p bytes r →
    (p = .remote → isGas r.station = false) → r.state = .armed →
    ∃ t, exec .start s = .next t ∧ s.Placed t (field bytes 2 1) r
      ∧ t = { s.answered p bytes .ok (t.stateByteOf (field bytes 2 1)) with table := t.table, burners := t.burners }

/-- An accepted RETIRE empties the slot, detaches with LINK_BROKEN the records that waited on it, closes up the station's queue, and
promotes the first queued record where the record was head (R29, R30, R77, R25): RUNNING from the beginning of its first stage, on a
gas station with a new grace even where the record before it was lit (R12). Its flags and their contexts go in one event of the
Alert Unit (R121, R123, R124; the mark fresh is the model's own: log 17). -/
def Obligations.RetireEmptiesTheSlot : Prop :=
  ∀ (s : State) (p : Port) (bytes : List Byte) (r : Record),
    let k := field bytes 2 1
    let st := r.station
    s.table.Consistent → s.LevelsFollow → s.Takes p 0x11 bytes → s.Reaches p bytes r →
    (p = .remote → isGas st = true → s.table.head st = k → s.table.queue st = []) →
    ∃ t, exec .retire s = .next t
      ∧ t = (s.answered p bytes .ok []).onRecords t
      ∧ t.table.rec? k = none
      ∧ (∀ d q, s.table.rec? d = some q → q.waitsOn k = true → d ≠ k → t.table.rec? d = some { q with
          start := { q.start with kind := .manual, count := 0, linked := 0 }, detached := true, alerts := q.alerts ||| 8#6 })
      ∧ (∀ d q, s.table.rec? d = some q → q.waitsOn k = false → d ≠ k →
          (s.table.head st = k → (s.table.queue st).head? ≠ some d) → t.table.rec? d = some q)
      ∧ (s.table.head st ≠ k → t.table.head st = s.table.head st ∧ t.table.queue st = (s.table.queue st).filter (fun q => q != k)
          ∧ t.app = s.app ∧ t.burners = s.burners)
      ∧ (s.table.head st = k → t.table.head st = (s.table.queue st).headD 0 ∧ t.table.queue st = (s.table.queue st).tail
          ∧ s.app.Dropped t.app (stationElements st) s.commandSlice
          ∧ (s.table.queue st = [] → isGas st = true → (t.burner st).level = 0)
          ∧ ∀ n rest, s.table.queue st = n :: rest → ∃ q, s.table.rec? n = some q
              ∧ t.table.rec? n = some (q.entering s.settings) ∧ t.FirstLevel q)
      ∧ s.AnnTaken t
      ∧ ∀ f, f ≠ st → t.table.head f = s.table.head f ∧ t.table.queue f = s.table.queue f ∧ t.burner f = s.burner f

/-- An accepted PAUSE stops a RUNNING record: its countdown state is kept, an electric record stands VOID with its elements
dropped from the slice in progress on, a burner goes to level 0 (R53, R46, R108, R11, R152). -/
def Obligations.PauseStopsTheRecord : Prop :=
  ∀ (s : State) (p : Port) (bytes : List Byte) (r : Record),
    let k := field bytes 2 1
    s.table.Consistent → s.Takes p 0x12 bytes → s.Reaches p bytes r → r.state = .running →
    ∃ t, exec .pause s = .next t
      ∧ t = { s.answered p bytes .ok [byteOf (4 + 8 * flag r.keep + 16 * flag r.flameOut + 32 * flag r.detached)] with
          table := s.table.put k (some { r with
            state := .paused, standing := if isGas r.station = true then r.standing else .void })
          burners := t.burners, app := t.app }
      ∧ s.app.Dropped t.app (stationElements r.station) s.commandSlice
      ∧ (isGas r.station = true → (t.burner r.station).level = 0)
      ∧ ∀ f, f ≠ r.station → t.burner f = s.burner f

/-- An accepted RESUME makes a PAUSED or HELD record RUNNING again, and clears the flame-out mark of one that ended with the keep
mark; a burner takes its level at once with a new grace (R16, R12, R152). -/
def Obligations.ResumeRestoresTheRecord : Prop :=
  ∀ (s : State) (p : Port) (bytes : List Byte) (r : Record),
    let k := field bytes 2 1
    s.table.Consistent → s.LevelsFollow → s.Takes p 0x13 bytes → s.Reaches p bytes r →
    (p = .remote → isGas r.station = false) →
    (r.state = .paused ∨ r.state = .held ∨ (r.state = .ended ∧ r.keep = true ∧ r.flameOut = true)) →
    ∃ t q, exec .resume s = .next t ∧ t.table.rec? k = some q
      ∧ q = { r with state := q.state, flameOut := false, grace := q.grace, absent := q.absent }
      ∧ q.state = (if r.state = .ended then .ended else .running)
      ∧ (∀ j, j ≠ k → t.table.rec? j = s.table.rec? j)
      ∧ (∀ g, isGas r.station = true → r.shownStage? = some g → g.level ≠ 0 →
          (t.burner r.station).level = g.level ∧ q.grace = 10 * s.settings.value Config.graceId ∧ q.absent = 0)
      ∧ (isGas r.station = false → q.grace = r.grace ∧ q.absent = r.absent)
      ∧ t = { s.answered p bytes .ok (t.stateByteOf k) with table := t.table, burners := t.burners }
      ∧ ∀ f, f ≠ r.station → t.burner f = s.burner f

/-- An accepted ADJUST changes the remaining time of a controlling record, or stage 1's duration of one that waits, by the seconds
given, clamped to 10..863,990 ds; an ENDED record is refused with WRONG_STATE (R58, R153). After it the reminder-done flag is
cleared where the total is above the threshold (R57), and a RUNNING record within its threshold with the flag clear raises REMINDER
and sets it (R56). Every other flag, and every other field of the record, is as before. -/
def Obligations.AdjustChangesTheTime : Prop :=
  ∀ (s : State) (p : Port) (bytes : List Byte) (r : Record),
    let k := field bytes 2 1
    let delta := signedField bytes 3
    let clamp := fun ds : Nat => (max (10 : Int) (min 863990 ((ds : Int) + 10 * delta))).toNat
    let above := fun q : Record => q.reminder.any (fun n => decide (10 * n < q.total))
    let within := fun q : Record => q.reminder.any (fun n => decide (q.total ≤ 10 * n))
    s.Takes p 0x14 bytes → s.Reaches p bytes r → -86399 ≤ delta → delta ≤ 86399 →
    (p = .remote → isGas r.station = true → r.adjustLengthens delta = false) →
    (r.state = .ended → exec .adjust s = .next (s.answered p bytes .wrongState []))
    ∧ (r.state = .running ∨ r.state = .paused ∨ r.state = .held →
        let moved := { r with remaining := clamp r.remaining }
        let done := r.reminderDone && !above moved
        (r.state = .running ∧ done = false ∧ within moved = true → ∃ t, exec .adjust s = .next t
          ∧ t = { s.answered p bytes .ok (leBytes 3 (clamp r.remaining)) with
              table := s.table.put k (some { moved with reminderDone := true, alerts := r.alerts ||| 32#6 }), ann := t.ann }
          ∧ (r.hasAlert .reminder = true → t.ann = s.ann))
        ∧ (¬(r.state = .running ∧ done = false ∧ within moved = true) →
          exec .adjust s = .next { s.answered p bytes .ok (leBytes 3 (clamp r.remaining)) with
            table := s.table.put k (some { moved with reminderDone := done }) }))
    ∧ ∀ g rest, r.state = .armed ∨ r.state = .queued → r.stages = g :: rest →
        let moved := { r with stages := { g with duration := clamp g.duration } :: rest }
        exec .adjust s = .next { s.answered p bytes .ok (leBytes 3 (clamp g.duration)) with
          table := s.table.put k (some { moved with reminderDone := r.reminderDone && !above moved }) }

/-- An accepted SET LEVEL writes the clamped burner level, the grill level with FULL or HALF, or the clamped and rounded setpoint
into the stage that is in force or about to be; a lit burner takes a level above 0 at once without a new grace, and a burner lit by
it gets one (R12, R42, R59, R153). That the reply's second byte of a grill value is 1 for FULL is the model's choice (log 16). A
burner's level line has the duty that its commanded level gives, and is low while RESETn is low and while the start-up load runs
(R10; that the line is shown as its duty in percent is the model's choice: log 20). -/
def Obligations.SetLevelWritesTheStage : Prop :=
  (∀ (s : State) (p : Port) (bytes : List Byte) (r : Record) (i : Nat) (g : Stage),
    let k := field bytes 2 1
    let v := field bytes 3 2
    s.table.Consistent → s.LevelsFollow → s.Takes p 0x15 bytes → s.Reaches p bytes r → v ≠ 0 →
    (r.station = 7 → v % 256 ≠ 0) → (r.state ≠ .ended ∨ r.keep = true) →
    (p = .remote → isGas r.station = true → min 9 v ≤ g.level) →
    i = (if r.state = .armed ∨ r.state = .queued then 1 else if r.state = .ended then r.stages.length else r.stage) →
    r.stageAt? i = some g →
    let g' := if r.station < 6 then { g with level := min 9 v }
      else if r.station = 7 then { g with level := min 4 (v % 256), full := decide (256 ≤ v) }
      else { g with setpoint := some (5 * ((max 30 (min 300 v) + 2) / 5)) }
    ∃ t q, exec .setLevel s = .next t ∧ t.table.rec? k = some q
      ∧ q = { r with stages := r.stages.set (i - 1) g', grace := q.grace, absent := q.absent }
      ∧ (∀ j, j ≠ k → t.table.rec? j = s.table.rec? j)
      ∧ t = { s.answered p bytes .ok (leBytes 2 (if r.station < 6 then g'.level
            else if r.station = 7 then g'.level + 256 * flag g'.full else g'.setpoint.getD 0) ++ [byteOf i]) with
          table := t.table, burners := t.burners }
      ∧ (isGas r.station = true → (r.state = .running ∨ (r.state = .ended ∧ r.flameOut = false)) →
          (t.burner r.station).level = g'.level)
      ∧ (if isGas r.station = true ∧ (s.burner r.station).level = 0
            ∧ (r.state = .running ∨ (r.state = .ended ∧ r.flameOut = false)) then
          q.grace = 10 * s.settings.value Config.graceId ∧ q.absent = 0
        else q.grace = r.grace ∧ q.absent = r.absent)
      ∧ ∀ f, f ≠ r.station → t.burner f = s.burner f)
  ∧ ∀ (s : State) (st : Nat), (s.held = true ∨ s.loading = true → s.levelLine st = 0)
      ∧ (s.held = false → s.loading = false → (s.burner st).level ≤ 9 →
          some (s.levelLine st) = [0, 11, 22, 33, 44, 56, 67, 78, 89, 100][(s.burner st).level]?)

/-- An accepted SKIP ends the current stage of a RUNNING record as a countdown to 0 would: the next stage begins, or the record
ends; the elements that leave the station's set are dropped from the slice in progress (R60, R51, R52, R106, R107, R153). The Alert
Unit takes it as one event (R121; the mark fresh is the model's own: log 17). -/
def Obligations.SkipEndsTheStage : Prop :=
  ∀ (s : State) (p : Port) (bytes : List Byte) (r : Record),
    let k := field bytes 2 1
    s.table.Consistent → s.LevelsFollow → s.Takes p 0x16 bytes → s.Reaches p bytes r → r.state = .running →
    (p = .remote → isGas r.station = false) →
    (r.stage < r.stages.length → ∃ t, exec .skip s = .next t ∧ s.StageEnded t k r
      ∧ t = (s.answered p bytes .ok (t.stateByteOf k ++ [byteOf (r.stage + 1)])).onRecords t
      ∧ s.app.Dropped t.app (s.leaving t r.station) s.commandSlice ∧ s.AnnTaken t)
    ∧ (r.stage = r.stages.length → (∀ j q, s.table.rec? j = some q → q.waitsOn k = false) →
        ∃ t, exec .skip s = .next t ∧ s.RecordEnded t k r
          ∧ t = (s.answered p bytes .ok (t.stateByteOf k ++ [byteOf r.stage])).onRecords t
          ∧ s.app.Dropped t.app (s.leaving t r.station) s.commandSlice ∧ s.AnnTaken t)

/-- QUERY, LIST, NEXT ALERT, GET ITEM and SETTINGS STATUS change nothing but their answer. QUERY gives the record's 34 bytes, its
stages in six bytes each, and for OV and GR the apportioning figures (R154, R184, with the codes of R179). LIST gives the station's
slots, the head first, then the queue, then the ARMED records and the ENDED ones without the keep mark, each in ascending order, and
none to a port that may not view the station (R34). NEXT ALERT gives the port's best alert (R119), the number of pending alerts of
priority 1 or more that the port may view, the current context unless its station is withheld from the port, and the stack's depth
(R133). GET ITEM gives the working value; SETTINGS STATUS the load and store status (R173, R183). -/
def Obligations.ReadingCommandsOnlyAnswer : Prop :=
  ∀ (s : State) (p : Port) (bytes : List Byte),
    (∀ r, s.Takes p 0x20 bytes → 1 ≤ field bytes 2 1 → field bytes 2 1 ≤ 48 → s.table.rec? (field bytes 2 1) = some r →
        portViews s.settings p r.station = true →
        exec .query s = .next (s.answered p bytes .ok (
          [byteOf (field bytes 2 1), byteOf r.station, (match r.origin with | .panel => 0#8 | .remote => 1#8),
            byteOf ((match r.state with
                | .armed => 1 | .queued => 2 | .running => 3 | .paused => 4 | .held => 5 | .ended => 6)
              + (if r.keep = true then 8 else 0) + (if r.flameOut = true then 16 else 0) + (if r.detached = true then 32 else 0)),
            (match r.start.kind with
              | .now => 0#8 | .manual => 1#8 | .delay => 2#8 | .clockTime => 3#8 | .after => 4#8)]
          ++ leBytes 3 r.start.count ++ leBytes 2 r.start.minute ++ [byteOf r.start.linked] ++ leBytes 2 r.start.offset
          ++ leBytes 3 (if r.state = .armed then (match r.start.kind with
                | .delay => r.start.count
                | .clockTime => clockCountdown s.time.clock r.start.minute
                | .after => if r.start.linked = 0 then r.start.count else 0xFFFFFF
                | .manual | .now => 0xFFFFFF) else 0)
          ++ [byteOf r.stage, byteOf r.stages.length] ++ leBytes 3 r.remaining ++ leBytes 3 r.total ++ leBytes 2 r.acc
          ++ [byteOf r.starve, byteOf ((if r.starvedRaised = true then 1 else 0) + (if r.reminderDone = true then 2 else 0))]
          ++ leBytes 2 (r.reminder.getD 0) ++ leBytes 2 r.grace ++ [byteOf r.absent, r.alerts.zeroExtend 8]
          ++ r.stages.flatMap (fun g => byteOf g.level
              :: leBytes 3 (g.duration + (if g.basis = .compensated then 2 ^ 20 else 0) + (if g.second = true then 2 ^ 21 else 0)
                + (if g.setpoint.isSome = true then 2 ^ 22 else 0) + (if g.full = true then 2 ^ 23 else 0))
              ++ leBytes 2 (g.setpoint.getD 0))
          ++ (if r.station < 6 then [] else
              (if r.station = 6 then [0, 1, 2] else if r.station = 7 then [3, 4] else []).flatMap (fun e =>
                [byteOf (s.app.element e).request, byteOf (s.app.element e).grant, byteOf (s.app.element e).delivered,
                  byteOf ((if (s.app.element e).blocked = true then 1 else 0) + (if (s.app.element e).relay = true then 2 else 0))])
              ++ leBytes 2 s.app.periodBudget ++ leBytes 2 s.app.sliceBudget
              ++ leBytes 3 (if r.station = 6 then s.app.oven else s.app.grill).requested
              ++ leBytes 3 (if r.station = 6 then s.app.oven else s.app.grill).delivered))))
    ∧ (∀ n, leBytes 2 n = [byteOf n, byteOf (n / 256)] ∧ leBytes 3 n = [byteOf n, byteOf (n / 256), byteOf (n / 65536)]
        ∧ leBytes 4 n = [byteOf n, byteOf (n / 256), byteOf (n / 65536), byteOf (n / 16777216)])
    ∧ (let st := field bytes 2 1
       s.Takes p 0x21 bytes → st ≤ 7 →
        (portViews s.settings p st = false → exec .list s = .next (s.answered p bytes .ok [0#8]))
        ∧ (portViews s.settings p st = true → ∃ armed ended : List Nat,
            let slots := (if s.table.head st = 0 then [] else [s.table.head st]) ++ s.table.queue st ++ armed ++ ended
            exec .list s = .next (s.answered p bytes .ok (byteOf slots.length :: slots.map byteOf))
            ∧ armed.Pairwise (· < ·) ∧ ended.Pairwise (· < ·)
            ∧ (∀ k, k ∈ armed ↔ k ∈ allSlots ∧ ∃ r, s.table.rec? k = some r ∧ r.station = st ∧ r.state = .armed)
            ∧ ∀ k, k ∈ ended ↔ k ∈ allSlots
                ∧ ∃ r, s.table.rec? k = some r ∧ r.station = st ∧ r.state = .ended ∧ r.keep = false))
    ∧ (s.Takes p 0x30 bytes →
        let waits := s.table.waits s.settings (portViews s.settings p)
        ∃ (best context : List Byte) (waiting : List (Nat × AlertKind)),
          exec .nextAlert s = .next (s.answered p bytes .ok
            (best ++ leBytes 2 waiting.length ++ context ++ [byteOf s.ann.stack.length]))
          ∧ ((∀ a, ¬waits a) → best = [0#8, 0#8, 0#8, 0#8])
          ∧ (∀ a r, waits a → (∀ b, waits b → s.settings.prefers a b) → s.table.rec? a.1 = some r →
              best = [byteOf a.1, byteOf r.station, byteOf a.2.num, byteOf (s.settings.priority a.2)])
          ∧ waiting.Nodup ∧ (∀ a, a ∈ waiting ↔ waits a)
          ∧ (s.ann.current = none → context = [0#8, 0#8, 0#8, 0#8])
          ∧ ∀ c r, s.ann.current = some c → s.table.rec? c.slot = some r → context =
              if p = .remote ∧ s.settings.permission r.station = 0 then [0#8, 0#8, 0#8, 0#8]
              else [byteOf c.slot, byteOf c.kind.num, byteOf c.priority, if c.muted = true then 1#8 else 0#8])
    ∧ ([AlertKind.flameLost, .recordEnd, .starved, .linkBroken, .stageEnd, .reminder].map AlertKind.num = [0, 1, 2, 3, 4, 5])
    ∧ (∀ it ∈ Config.items, s.Takes p 0x51 bytes → field bytes 2 2 = it.id →
        exec .getItem s = .next (s.answered p bytes .ok (leBytes 2 it.id ++ leBytes 4 (s.settings.value it.id))))
    ∧ (s.Takes p 0x53 bytes → exec .settingsStatus s = .next (s.answered p bytes .ok (
        [(match s.settings.loader with | .loading => 0#8 | .absent => 1#8 | .blank => 2#8 | .loaded => 3#8)]
          ++ leBytes 2 s.settings.applied ++ leBytes 2 s.settings.skipped ++ leBytes 2 s.settings.rejected
          ++ [if s.settings.partialEntry = true then 1#8 else 0#8,
            (match s.settings.store with | .none => 0#8 | .inProgress _ => 1#8 | .ok => 2#8 | .failed _ => 3#8),
            (match s.settings.store with | .failed n => byteOf n | .none | .inProgress _ | .ok => 0#8)])))

/-- An accepted ACK clears the record's flag of the kind named and keeps the record; on an ENDED record without the keep mark, an
ACK of RECORD_END retires it (R31, R131, R155). The whole ACK is one event of the Alert Unit: the contexts of the flags it cleared
go, with the pop, and one evaluation follows (R121, R123, R124; the mark fresh is the model's own: log 17); where it cleared none
the annunciator stays as it was. -/
def Obligations.AckClearsTheFlag : Prop :=
  ∀ (s : State) (p : Port) (bytes : List Byte) (r : Record) (kind : AlertKind),
    let k := field bytes 2 1
    s.table.Consistent → s.Takes p 0x31 bytes → s.Reaches p bytes r → field bytes 3 1 = kind.num →
    (¬(kind = .recordEnd ∧ r.state = .ended ∧ r.keep = false) → ∃ t q, exec .ack s = .next t
      ∧ t = { s.answered p bytes .ok [] with table := s.table.put k (some q), ann := t.ann } ∧ s.AnnTaken t
      ∧ (r.hasAlert kind = false → t.ann = s.ann)
      ∧ q = { r with alerts := q.alerts } ∧ q.hasAlert kind = false ∧ ∀ other, other ≠ kind → q.hasAlert other = r.hasAlert other)
    ∧ (kind = .recordEnd → r.state = .ended → r.keep = false → ∃ t, exec .ack s = .next t
      ∧ t = { s.answered p bytes .ok [] with table := t.table, ann := t.ann, todo := t.todo }
      ∧ t.table.rec? k = none ∧ t.table.heads = s.table.heads ∧ s.AnnTaken t
      ∧ ∀ d q, s.table.rec? d = some q → d ≠ k → q.waitsOn k = false → t.table.rec? d = some q)

/-- An accepted SILENCE mutes the current context and nothing else; its answer names the context's slot and kind, or none (R128,
R155). -/
def Obligations.SilenceMutesTheContext : Prop :=
  ∀ (s : State) (p : Port) (bytes : List Byte), s.Takes p 0x32 bytes →
    (s.ann.current = none → exec .silence s = .next (s.answered p bytes .ok [0#8, 0#8]))
    ∧ (∀ c, s.ann.current = some c →
        (p = .remote → ∃ r, s.table.rec? c.slot = some r ∧ s.settings.permission r.station = 2) →
        ∃ t, exec .silence s = .next t ∧ t.buz = false
          ∧ t = { s.answered p bytes .ok [byteOf c.slot, byteOf c.kind.num] with
              ann := { s.ann with current := some { c with muted := true }, fresh := t.ann.fresh } })
    ∧ ∀ c r, s.ann.current = some c → s.table.rec? c.slot = some r → s.settings.permission r.station ≠ 2 → p = .remote →
        exec .silence s = .next (s.answered p bytes .denied [])

/-- An accepted SET CLOCK sets the reading and CLOCK_VALID and answers with what they were; a forward span makes the ARMED AT
records due whose countdown it covers, which are placed together at that event in ascending slot order (R23), and no other record
moves (R71, R86, R156). -/
def Obligations.SetClockSetsTheReading : Prop :=
  ∀ (s : State) (p : Port) (bytes : List Byte),
    let new := 3600 * field bytes 2 1 + 60 * field bytes 3 1 + field bytes 4 1
    let span := (new + 86400 - s.time.clock) % 86400
    s.table.Consistent → s.Takes p 0x40 bytes →
    field bytes 2 1 ≤ 23 → field bytes 3 1 ≤ 59 → field bytes 4 1 ≤ 59 →
    (p = .remote → ∀ k r, s.table.rec? k = some r → r.waitsClock = true → isGas r.station = false) →
    ∃ t, exec .setClock s = .next t
      ∧ t = { s.answered p bytes .ok [byteOf (s.time.clock / 3600), byteOf (s.time.clock / 60 % 60),
            byteOf (s.time.clock % 60), byteOf (flag s.time.valid)] with
          time := { s.time with clock := new, valid := true }, table := t.table, burners := t.burners }
      ∧ (∀ k r, s.table.rec? k = some r →
          if r.waitsClock = true ∧ s.time.valid = true ∧ 1 ≤ span ∧ span ≤ 43200
              ∧ clockCountdown s.time.clock r.start.minute ≤ span then
            ∃ q, t.table.rec? k = some q ∧ (q.state = .running ∨ q.state = .queued)
          else t.table.rec? k = some r)
      ∧ (s.LevelsFollow → ∃ ks, s.PlacedTogether t ks ∧ ∀ k, k ∈ ks ↔ s.time.valid = true ∧ 1 ≤ span ∧ span ≤ 43200
          ∧ k ∈ allSlots ∧ ∃ r, s.table.rec? k = some r ∧ r.waitsClock = true
            ∧ clockCountdown s.time.clock r.start.minute ≤ span)

/-- An accepted WINDOW sets the window with its cursor at the first slot; each entry that a READ WINDOW frame begins is the one of
the slot at the cursor, which then moves on round the window (R156, R165, R166). The twelve bytes of an entry filled at a refresh:
slot, station, state byte, stage index and count, level of the stage shown, remaining and total time in seconds rounded up, alert
flags; the slot number and zeros for an EMPTY slot (R44, R80, R88, R89, R179, R185). -/
def Obligations.WindowAndItsEntries : Prop :=
  (∀ (s : State) (bytes : List Byte), s.Takes .panel 0x41 bytes → 1 ≤ field bytes 2 1 → field bytes 2 1 ≤ field bytes 3 1 →
    field bytes 3 1 ≤ 48 → exec .window s = .next { s.answered .panel bytes .ok [] with
      panel := { (s.answered .panel bytes .ok []).panel with
        first := field bytes 2 1, last := field bytes 3 1, cursor := field bytes 2 1 } })
  ∧ (∀ (s : State) (e : Option (List Byte)), s.held = false → s.panel.frame = .window e →
    exec .windowEntry s = .next { s with panel := { s.panel with
      frame := .window (some (s.snap.entry s.panel.cursor).bytes)
      cursor := if s.panel.cursor = s.panel.last then s.panel.first else s.panel.cursor + 1 } })
  ∧ ∀ (b : SnapshotBuffer) (t : Table) (reading k : Nat), b.entries = snapshotOf t reading → 1 ≤ k → k ≤ 48 →
    (t.rec? k = none → (b.entry k).bytes = byteOf k :: List.replicate 11 0#8)
    ∧ ∀ r, t.rec? k = some r →
      let seconds := fun ds : Nat => (ds + 9) / 10
      let shown := if r.state = .armed ∨ r.state = .queued then 1 else if r.state = .ended then r.stages.length else r.stage
      let remaining := match r.state with
        | .armed => (match r.start.kind with
          | .delay => r.start.count
          | .clockTime => clockCountdown reading r.start.minute
          | .after => if r.start.linked = 0 then r.start.count else 0xFFFFFF
          | .manual | .now => 0xFFFFFF)
        | .queued => seconds ((r.stageAt? 1).elim 0 Stage.duration)
        | .running | .paused | .held => seconds r.remaining
        | .ended => 0
      (b.entry k).bytes =
        [byteOf k, byteOf r.station,
          byteOf ((match r.state with
              | .armed => 1 | .queued => 2 | .running => 3 | .paused => 4 | .held => 5 | .ended => 6)
            + (if r.keep = true then 8 else 0) + (if r.flameOut = true then 16 else 0) + (if r.detached = true then 32 else 0)),
          byteOf (r.stage + 16 * r.stages.length),
          byteOf ((r.stageAt? shown).elim 0 (fun g => g.level + (if g.full = true then 128 else 0)))]
        ++ leBytes 3 remaining ++ leBytes 3 (seconds r.total) ++ [r.alerts.zeroExtend 8]

/-- An accepted SET ITEM replaces one working value, a lower budget bringing the shed budget down with it; a change of a kind's
priority takes the contexts of a silenced kind away and is followed by an evaluation (R125); an accepted GRANT replaces one
permission and answers with the one before (R149, R172). Range and step are those of R171, where one worked example differs (log
36); the mark fresh is the model's own (log 17). Both are refused with BUSY during a store (R142). -/
def Obligations.SetItemAndGrantReplaceSettings : Prop :=
  (∀ (s : State) (bytes : List Byte) (it : Config.Item), it ∈ Config.items → s.settings.values.length = 29 →
    s.Takes .panel 0x50 bytes → field bytes 2 2 = it.id →
    (s.settings.storing = true → exec .setItem s = .next (s.answered .panel bytes .busy []))
    ∧ (s.settings.storing = false → it.low ≤ field bytes 4 4 → field bytes 4 4 ≤ it.high → field bytes 4 4 % it.step = 0 →
        (it.id = 0x31 → field bytes 4 4 ≤ s.settings.value 0x30) →
        ∃ t, exec .setItem s = .next t
          ∧ t.replies .panel = s.replies .panel ++ [⟨tagOf bytes, .ok,
              leBytes 2 it.id ++ leBytes 4 (field bytes 4 4)
                ++ (if it.id = 0x30 then leBytes 4 (min (field bytes 4 4) (s.settings.value 0x31)) else [])⟩]
          ∧ t.settings.value it.id = field bytes 4 4
          ∧ (∀ id, id ≠ it.id → ¬(it.id = 0x30 ∧ id = 0x31) → t.settings.value id = s.settings.value id)
          ∧ (it.id = 0x30 → t.settings.value 0x31 = min (field bytes 4 4) (s.settings.value 0x31))
          ∧ t.time = s.time ∧ t.memory = s.memory ∧ t.snap = s.snap
          ∧ (0x40 ≤ it.id → it.id ≤ 0x45 → s.settings.value it.id ≠ field bytes 4 4 →
              t.ann = { ({ s with settings := t.settings } : State).settle.ann with fresh := t.ann.fresh })
          ∧ (¬(0x40 ≤ it.id ∧ it.id ≤ 0x45) ∨ s.settings.value it.id = field bytes 4 4 → s.AnnTaken t)
          ∧ (¬(0x50 ≤ it.id ∧ it.id ≤ 0x57) → t.table = s.table ∧ t.burners = s.burners ∧ t.app = s.app)))
  ∧ ∀ (s : State) (bytes : List Byte), s.settings.values.length = 29 → s.Takes .panel 0x60 bytes →
    (s.settings.storing = true → exec .grant s = .next (s.answered .panel bytes .busy []))
    ∧ (s.settings.storing = false → field bytes 2 1 ≤ 7 → field bytes 3 1 ≤ 2 →
        ∃ t, exec .grant s = .next t
          ∧ t.replies .panel = s.replies .panel ++ [⟨tagOf bytes, .ok, [byteOf (s.settings.permission (field bytes 2 1))]⟩]
          ∧ t.settings.permission (field bytes 2 1) = field bytes 3 1
          ∧ (∀ id, id ≠ 0x50 + field bytes 2 1 → t.settings.value id = s.settings.value id)
          ∧ (s.settings.permission (field bytes 2 1) ≠ 2 ∨ field bytes 3 1 = 2 → t.table = s.table ∧ t.ann = s.ann))

/-- A lowering of a station's permission from FULL, by GRANT or by SET ITEM of the station's permission item, retires its
REMOTE-origin ARMED and QUEUED records. A record outside that set that waits on one of them is detached with LINK_BROKEN, one of the
set is not; every other record stays as it is, and no head, level or element changes (R36, R37, R149, R172). The Alert Unit takes it
as one event (R121; the mark fresh is the model's own: log 17). -/
def Obligations.PermissionLoweringRetires : Prop :=
  ∀ (s : State) (c : Instr) (code st v : Nat) (bytes data : List Byte), s.table.Consistent →
    (c = .grant ∧ code = 0x60 ∧ field bytes 2 1 = st ∧ field bytes 3 1 = v ∧ data = [2#8])
      ∨ (c = .setItem ∧ code = 0x50 ∧ field bytes 2 2 = 0x50 + st ∧ field bytes 4 4 = v
        ∧ data = leBytes 2 (0x50 + st) ++ leBytes 4 v) →
    s.Takes .panel code bytes → s.settings.storing = false → st ≤ 7 → v < 2 → s.settings.permission st = 2 →
    let leaves := fun r : Record => decide (r.station = st) && decide (r.origin = .remote)
      && (decide (r.state = .armed) || decide (r.state = .queued))
    ∃ t, exec c s = .next t
      ∧ t = { s.answered .panel bytes .ok data with
          settings := s.settings.withValue (0x50 + st) v, table := t.table, ann := t.ann, todo := t.todo }
      ∧ t.settings.permission st = v ∧ s.AnnTaken t
      ∧ t.table.heads = s.table.heads ∧ (∀ f, f ≠ st → t.table.queue f = s.table.queue f)
      ∧ t.table.queue st = (s.table.queue st).filter (fun k => !(s.table.rec? k).any leaves)
      ∧ ∀ k, (s.table.rec? k = none → t.table.rec? k = none)
        ∧ ∀ r, s.table.rec? k = some r → t.table.rec? k =
          if leaves r = true then none
          else if r.holdsLink = true ∧ (s.table.rec? r.start.linked).any leaves = true then some { r with
            start := { r.start with kind := .manual, count := 0, linked := 0 }, detached := true, alerts := r.alerts ||| 8#6 }
          else some r

/-- An accepted STORE SETTINGS forms the image and begins the seven writes; each completed write puts its page into the settings
memory and brings the next, the last ends the store OK; a write that times out ends it FAILED with its number (R177, R178). On the
memory link a write is a write enable, 0x0E, a page write, 0x0A with the address, high byte first, and the data, and status reads,
0x0D, of which the last reads busy clear where the write completes and none does where it times out (R174, R179; that State shows
them is the model's own: log 34). -/
def Obligations.StoreWritesSevenPages : Prop :=
  (∀ (s : State) (bytes : List Byte), s.Takes .panel 0x52 bytes → s.settings.storing = false →
    exec .storeSettings s = .next { s.answered .panel bytes .ok [] with settings := { s.settings with
      store := .inProgress 0, image := imageOf s.settings.values } })
  ∧ ∀ (s : State) (n : Nat), s.settings.store = .inProgress n → n ≤ 6 → s.settings.image.length = 178 →
    let written := fun clears : Bool => [Transfer.exchange [0x0E#8] [],
      Transfer.exchange (if n = 6 then [0x0A#8, 0#8, 0#8, 0xA6#8]
        else if n = 0 then [0x0A#8, 0#8, 0#8, 0#8] ++ (s.settings.image.drop 1).take 31
        else [0x0A#8, 0#8, byteOf (32 * n)] ++ (s.settings.image.drop (32 * n)).take 32) [],
      Transfer.polling 0x0D#8 clears]
    (∃ t, exec .storeWriteComplete s = .next t
      ∧ t = { s with memory := t.memory, link := written true, settings := { s.settings with
          store := if n < 6 then .inProgress (n + 1) else .ok, image := t.settings.image } }
      ∧ (n < 6 → t.settings.image = s.settings.image)
      ∧ (Memory.wf s.memory → ∀ a, Memory.read t.memory a =
          if n = 6 then (if a = 0 then 0xA6#8 else Memory.read s.memory a)
          else if 32 * n ≤ a ∧ a < min 178 (32 * n + 32) then (if a = 0 then 0#8 else s.settings.image.getD a 0#8)
          else Memory.read s.memory a))
    ∧ ∀ left : List Byte, ∃ t, exec (.storeWriteTimeout left) s = .next t
      ∧ t = { s with memory := t.memory, link := written false, settings := { s.settings with
          store := .failed n, image := t.settings.image } }
      ∧ (n = 0 → Memory.wf s.memory → Memory.read t.memory 0 = Memory.read s.memory 0)
      ∧ (Memory.wf s.memory → ∀ a, (if n = 6 then a ≠ 0 else a < 32 * n ∨ 32 * n + 32 ≤ a) →
          Memory.read t.memory a = Memory.read s.memory a)

/-- An accepted SOFT RESET empties the table and the queues, quiets the annunciator, puts every level to 0 and drops and clears
every element; the clock, the settings, the snapshot, the counters and the settings in force are kept (R40, R115, R134, R157). -/
def Obligations.SoftResetClearsTheBlocks : Prop :=
  ∀ (s : State) (bytes : List Byte), s.Takes .panel 0x61 bytes →
    ∃ t, exec .softReset s = .next t
      ∧ t = { s with
          table := t.table, burners := t.burners, app := t.app, ann := t.ann, todo := t.todo, lastServed := .panel
          panel := { s.panel with commands := [], replies := [{ tag := tagOf bytes, code := .ok, data := [] }] }
          remote := { s.remote with commands := [], replies := [] } }
      ∧ (∀ k, t.table.rec? k = none) ∧ (∀ st, t.table.head st = 0 ∧ t.table.queue st = [])
      ∧ (∀ st, (t.burner st).level = 0) ∧ t.ann.current = none ∧ t.ann.stack = [] ∧ t.buz = false
      ∧ t.app.budget = s.app.budget ∧ t.app.shedBudget = s.app.shedBudget ∧ t.app.periodBudget = s.app.periodBudget
      ∧ t.app.sliceBudget = s.app.sliceBudget ∧ t.app.oven = ⟨0, 0⟩ ∧ t.app.grill = ⟨0, 0⟩
      ∧ ∀ e, e < 5 → t.app.element e = { s.app.element e with
          on := (s.app.element e).on.filter (fun j => decide (j < s.commandSlice)), relay := false,
          request := 0, grant := 0, delivered := 0, blocked := false }

/-- An accepted STATION RESET empties every slot of the station without promotion, detaches the records of other stations that
waited on one of them, turns the station's heat points off and leaves every other record as it was (R39, R115, R158). The Alert Unit
takes it as one event (R121; the mark fresh is the model's own: log 17). -/
def Obligations.StationResetEmptiesTheStation : Prop :=
  ∀ (s : State) (bytes : List Byte), s.table.Consistent → s.Takes .panel 0x62 bytes → field bytes 2 1 ≤ 7 →
    let st := field bytes 2 1
    ∃ t, exec .stationReset s = .next t
      ∧ t = (s.answered .panel bytes .ok []).onRecords t ∧ s.AnnTaken t
      ∧ (∀ k r, s.table.rec? k = some r → r.station = st → t.table.rec? k = none)
      ∧ t.table.head st = 0 ∧ t.table.queue st = [] ∧ (st < 6 → s.table.head st ≠ 0 → (t.burner st).level = 0)
      ∧ (∀ e ∈ stationElements st, (t.app.element e).relay = false ∧ ∀ j ∈ (t.app.element e).on, j < s.commandSlice)
      ∧ (∀ e, e ∉ stationElements st → t.app.element e = s.app.element e)
      ∧ (∀ k r, s.table.rec? k = some r → r.station ≠ st →
          if r.holdsLink = true ∧ (s.table.rec? r.start.linked).any (fun q => decide (q.station = st)) = true then
            t.table.rec? k = some { r with
              start := { r.start with kind := .manual, count := 0, linked := 0 }, detached := true, alerts := r.alerts ||| 8#6 }
          else t.table.rec? k = some r)
      ∧ ∀ f, f ≠ st → t.table.head f = s.table.head f ∧ t.table.queue f = s.table.queue f ∧ t.burner f = s.burner f

/-! ### The ports -/

/-- A panel frame begins at the fall of PCS, and its type byte decides what it is; an unknown type raises the MALFORMED count, which
stays at 255; the rise of PCS ends a frame that is not a COMMAND or READ WINDOW frame (R159, R164). At its end a COMMAND frame of up
to 64 bytes is queued, or sets OVERRUN where 8 are queued; a longer one counts as malformed and is answered BAD_FRAME where the
reply has room (R160). While the type byte comes, and throughout a COMMAND and an unknown frame, the port sends 0x00; it sends
nothing without a frame (R159, R164). No row tells of one byte of a COMMAND frame: its bytes come with its end (log 14). -/
def Obligations.PanelFramesAreTaken : Prop :=
  ∀ s : State, s.held = false →
    (s.panel.frame = .idle → exec .pcsFall s = .next { s with panel := { s.panel with frame := .untyped } })
    ∧ (s.panel.frame = .untyped →
        exec (.frameTypeByte 1#8) s = .next { s with panel := { s.panel with frame := .command [] } }
        ∧ exec (.frameTypeByte 2#8) s = .next { s with panel := { s.panel with frame := .fetch none } }
        ∧ exec (.frameTypeByte 3#8) s = .next { s with panel := { s.panel with frame := .window none } }
        ∧ exec (.frameTypeByte 4#8) s = .next { s with panel := { s.panel with frame := .status none } }
        ∧ ∀ b : Byte, b ∉ [1#8, 2#8, 3#8, 4#8] → exec (.frameTypeByte b) s =
            .next { s with panel := { s.panel with frame := .unknown, malformed := min 255 (s.panel.malformed + 1) } })
    ∧ (s.panel.frame = .untyped ∨ s.panel.frame = .unknown ∨ (∃ x, s.panel.frame = .fetch x) ∨ (∃ x, s.panel.frame = .status x) →
        exec .pcsRise s = .next { s with panel := { s.panel with frame := .idle } })
    ∧ ((s.panel.frame = .untyped ∨ s.panel.frame = .unknown ∨ ∃ taken, s.panel.frame = .command taken) →
        ∀ n, s.panelSends n = some 0#8)
    ∧ (s.panel.frame = .idle → ∀ n, s.panelSends n = none)
    ∧ ∀ taken rest : List Byte, s.panel.frame = .command taken →
        let bytes := taken ++ rest
        (bytes.length ≤ 64 → s.panel.commands.length < 8 → exec (.commandFrameEnd rest) s =
          .next { s with panel := { s.panel with frame := .idle, commands := s.panel.commands ++ [bytes] } })
        ∧ (bytes.length ≤ 64 → 8 ≤ s.panel.commands.length → exec (.commandFrameEnd rest) s =
          .next { s with panel := { s.panel with frame := .idle, overrun := true } })
        ∧ (64 < bytes.length → s.panel.replies.length < 8 → exec (.commandFrameEnd rest) s =
          .next { s with panel := { s.panel with frame := .idle, malformed := min 255 (s.panel.malformed + 1), replies :=
            s.panel.replies ++ [{ tag := bytes.headD 0#8, code := .badFrame, data := [] }] } })
        ∧ (64 < bytes.length → 8 ≤ s.panel.replies.length → exec (.commandFrameEnd rest) s =
          .next { s with panel := { s.panel with frame := .idle, malformed := min 255 (s.panel.malformed + 1) } })

/-- A FETCH takes the oldest reply out of the queue at its length byte and sends, after the dummy byte 0x00, its length, its bytes
and then 0x00 for ever, or a length of 0 and 0x00 (R159, R161, R183); a PORT STATUS frame forms its byte from OVERRUN and the two
queues, sends it after the dummy byte, then the MALFORMED count and 0x00, and clears OVERRUN once the byte has been clocked out
(R163, R185); the end of a READ WINDOW frame takes the refresh deferred by it (R91, R92). -/
def Obligations.PanelReadsAreServed : Prop :=
  ∀ s : State, s.held = false →
    (s.panel.frame = .fetch none →
      (s.panel.replies = [] → exec .fetchLengthByte s = .next { s with panel := { s.panel with frame := .fetch (some [0#8]) } })
      ∧ ∀ r rest, s.panel.replies = r :: rest → exec .fetchLengthByte s = .next { s with panel := { s.panel with
          frame := .fetch (some (byteOf (2 + r.data.length) :: r.tag :: byteOf r.code.num :: r.data)), replies := rest } })
    ∧ (∀ clockedOut, s.panel.frame = .status none → exec (.portStatusByte clockedOut) s = .next { s with panel := { s.panel with
        frame := .status (some (byteOf (128 * flag s.panel.overrun + 9 * s.panel.commands.length + s.panel.replies.length),
          byteOf s.panel.malformed))
        overrun := if clockedOut = true then false else s.panel.overrun } })
    ∧ (s.panel.frame = .fetch none ∨ s.panel.frame = .window none ∨ s.panel.frame = .status none → s.panelSends 0 = some 0#8)
    ∧ (∀ sent, s.panel.frame = .fetch (some sent) → s.panelSends 0 = some 0#8
        ∧ (∀ n b, sent[n]? = some b → s.panelSends (n + 1) = some b) ∧ ∀ n, sent.length ≤ n → s.panelSends (n + 1) = some 0#8)
    ∧ (∀ b c, s.panel.frame = .status (some (b, c)) → s.panelSends 0 = some 0#8 ∧ s.panelSends 1 = some b
        ∧ s.panelSends 2 = some c ∧ ∀ n, 3 ≤ n → s.panelSends n = some 0#8)
    ∧ (∀ entry n b, s.panel.frame = .window (some entry) → entry[n]? = some b → s.panelSends n = some b)
    ∧ ([ResultCode.ok, .badCommand, .badFrame, .badParam, .noSlot, .stationFull, .noRecord, .wrongState, .denied, .chainTooDeep,
        .noClock, .busy, .notReady].map ResultCode.num = List.range 13)
    ∧ ∀ e, s.panel.frame = .window e →
        exec .readWindowEnd s = .next { s with
          panel := { s.panel with frame := .idle }
          snap := if s.snap.deferred = true then { entries := snapshotOf s.table s.time.clock, deferred := false, syncCount := 5 }
            else s.snap }

/-- The remote port acknowledges its own address alone; a write collects its bytes while its queue has room and its end delivers
them as one command; a first byte offered to a full queue and a 65th byte are not acknowledged and drop the write; a read takes the
oldest reply out of the queue at its address byte and sends its length, its bytes and then 0x00 for ever, or 0x00 alone (R167, R168,
R169, R183). A START ends the transaction in progress first, as a STOP does: of a collecting write, whose further bytes no row has
told of, it delivers the first byte (log 14, log 27). That READ_TRANSACTION_END also ends a dropped write is the model's reading
(log 35). -/
def Obligations.RemoteTransactionsAreServed : Prop :=
  ∀ s : State, s.held = false →
    (∀ a read,
      let waiting := match s.remote.transaction with
        | .collecting b => s.remote.commands ++ [[b]]
        | .idle | .addressed | .dropped | .reading _ => s.remote.commands
      (a ≠ s.remote.address → exec (.i2cAddress a read) s =
        .next { s with remote := { s.remote with commands := waiting, transaction := .idle, ack := false } })
      ∧ exec (.i2cAddress s.remote.address false) s =
        .next { s with remote := { s.remote with commands := waiting, transaction := .addressed, ack := true } }
      ∧ (s.remote.replies = [] → exec (.i2cAddress s.remote.address true) s =
        .next { s with remote := { s.remote with commands := waiting, transaction := .reading [0#8], ack := true } })
      ∧ ∀ r rest, s.remote.replies = r :: rest → exec (.i2cAddress s.remote.address true) s =
        .next { s with remote := { s.remote with
          commands := waiting, transaction := .reading (byteOf (2 + r.data.length) :: r.tag :: byteOf r.code.num :: r.data)
          replies := rest, ack := true } })
    ∧ (∀ b, s.remote.transaction = .addressed → s.remote.commands.length < 4 → exec (.remoteWriteFirstByte b) s =
        .next { s with remote := { s.remote with transaction := .collecting b, ack := true } })
    ∧ (∀ b, s.remote.transaction = .addressed → 4 ≤ s.remote.commands.length → exec (.remoteWriteFirstByte b) s =
        .next { s with remote := { s.remote with transaction := .dropped, ack := false } })
    ∧ (∀ b, s.remote.transaction = .collecting b → exec .remoteWriteOverlong s =
        .next { s with remote := { s.remote with transaction := .dropped, ack := false } })
    ∧ (∀ b rest, s.remote.transaction = .collecting b → rest.length ≤ 63 → exec (.remoteWriteEnd rest) s =
        .next { s with remote := { s.remote with commands := s.remote.commands ++ [b :: rest], transaction := .idle } })
    ∧ (∀ rest, s.remote.transaction = .addressed → exec (.remoteWriteEnd rest) s =
        .next { s with remote := { s.remote with transaction := .idle } })
    ∧ ((∃ x, s.remote.transaction = .reading x) ∨ s.remote.transaction = .dropped → exec .readTransactionEnd s =
        .next { s with remote := { s.remote with transaction := .idle } })
    ∧ (∀ sent, s.remote.transaction = .reading sent →
        (∀ n b, sent[n]? = some b → s.remoteSends n = some b) ∧ ∀ n, sent.length ≤ n → s.remoteSends n = some 0#8)
end

