-- ==== Sys2Proof/Laws/State.lean ====
section
/-! SUPPORT. Each block of the state after each block update, by rfl, so that no later proof unfolds a record update. -/

namespace Sys2Proof.Machine

@[simp] theorem State.withTable_held (s : State) (v : Table) : (s.withTable v).held = s.held := rfl
@[simp] theorem State.withTable_time (s : State) (v : Table) : (s.withTable v).time = s.time := rfl
@[simp] theorem State.withTable_table (s : State) (v : Table) : (s.withTable v).table = v := rfl
@[simp] theorem State.withTable_burners (s : State) (v : Table) : (s.withTable v).burners = s.burners := rfl
@[simp] theorem State.withTable_app (s : State) (v : Table) : (s.withTable v).app = s.app := rfl
@[simp] theorem State.withTable_ann (s : State) (v : Table) : (s.withTable v).ann = s.ann := rfl
@[simp] theorem State.withTable_settings (s : State) (v : Table) : (s.withTable v).settings = s.settings := rfl
@[simp] theorem State.withTable_snap (s : State) (v : Table) : (s.withTable v).snap = s.snap := rfl
@[simp] theorem State.withTable_panel (s : State) (v : Table) : (s.withTable v).panel = s.panel := rfl
@[simp] theorem State.withTable_remote (s : State) (v : Table) : (s.withTable v).remote = s.remote := rfl
@[simp] theorem State.withTable_lastServed (s : State) (v : Table) : (s.withTable v).lastServed = s.lastServed := rfl
@[simp] theorem State.withTable_memory (s : State) (v : Table) : (s.withTable v).memory = s.memory := rfl
@[simp] theorem State.withTable_link (s : State) (v : Table) : (s.withTable v).link = s.link := rfl
@[simp] theorem State.withTable_todo (s : State) (v : Table) : (s.withTable v).todo = s.todo := rfl
@[simp] theorem State.withTable_pending (s : State) (v : Table) : (s.withTable v).pending = s.pending := rfl

@[simp] theorem State.withBurners_held (s : State) (v : List Burner) : (s.withBurners v).held = s.held := rfl
@[simp] theorem State.withBurners_time (s : State) (v : List Burner) : (s.withBurners v).time = s.time := rfl
@[simp] theorem State.withBurners_table (s : State) (v : List Burner) : (s.withBurners v).table = s.table := rfl
@[simp] theorem State.withBurners_burners (s : State) (v : List Burner) : (s.withBurners v).burners = v := rfl
@[simp] theorem State.withBurners_app (s : State) (v : List Burner) : (s.withBurners v).app = s.app := rfl
@[simp] theorem State.withBurners_ann (s : State) (v : List Burner) : (s.withBurners v).ann = s.ann := rfl
@[simp] theorem State.withBurners_settings (s : State) (v : List Burner) : (s.withBurners v).settings = s.settings := rfl
@[simp] theorem State.withBurners_snap (s : State) (v : List Burner) : (s.withBurners v).snap = s.snap := rfl
@[simp] theorem State.withBurners_panel (s : State) (v : List Burner) : (s.withBurners v).panel = s.panel := rfl
@[simp] theorem State.withBurners_remote (s : State) (v : List Burner) : (s.withBurners v).remote = s.remote := rfl
@[simp] theorem State.withBurners_lastServed (s : State) (v : List Burner) : (s.withBurners v).lastServed = s.lastServed := rfl
@[simp] theorem State.withBurners_memory (s : State) (v : List Burner) : (s.withBurners v).memory = s.memory := rfl
@[simp] theorem State.withBurners_link (s : State) (v : List Burner) : (s.withBurners v).link = s.link := rfl
@[simp] theorem State.withBurners_todo (s : State) (v : List Burner) : (s.withBurners v).todo = s.todo := rfl
@[simp] theorem State.withBurners_pending (s : State) (v : List Burner) : (s.withBurners v).pending = s.pending := rfl

@[simp] theorem State.withApp_held (s : State) (v : Apportioner) : (s.withApp v).held = s.held := rfl
@[simp] theorem State.withApp_time (s : State) (v : Apportioner) : (s.withApp v).time = s.time := rfl
@[simp] theorem State.withApp_table (s : State) (v : Apportioner) : (s.withApp v).table = s.table := rfl
@[simp] theorem State.withApp_burners (s : State) (v : Apportioner) : (s.withApp v).burners = s.burners := rfl
@[simp] theorem State.withApp_app (s : State) (v : Apportioner) : (s.withApp v).app = v := rfl
@[simp] theorem State.withApp_ann (s : State) (v : Apportioner) : (s.withApp v).ann = s.ann := rfl
@[simp] theorem State.withApp_settings (s : State) (v : Apportioner) : (s.withApp v).settings = s.settings := rfl
@[simp] theorem State.withApp_snap (s : State) (v : Apportioner) : (s.withApp v).snap = s.snap := rfl
@[simp] theorem State.withApp_panel (s : State) (v : Apportioner) : (s.withApp v).panel = s.panel := rfl
@[simp] theorem State.withApp_remote (s : State) (v : Apportioner) : (s.withApp v).remote = s.remote := rfl
@[simp] theorem State.withApp_lastServed (s : State) (v : Apportioner) : (s.withApp v).lastServed = s.lastServed := rfl
@[simp] theorem State.withApp_memory (s : State) (v : Apportioner) : (s.withApp v).memory = s.memory := rfl
@[simp] theorem State.withApp_link (s : State) (v : Apportioner) : (s.withApp v).link = s.link := rfl
@[simp] theorem State.withApp_todo (s : State) (v : Apportioner) : (s.withApp v).todo = s.todo := rfl
@[simp] theorem State.withApp_pending (s : State) (v : Apportioner) : (s.withApp v).pending = s.pending := rfl

@[simp] theorem State.withAnn_held (s : State) (v : Annunciator) : (s.withAnn v).held = s.held := rfl
@[simp] theorem State.withAnn_time (s : State) (v : Annunciator) : (s.withAnn v).time = s.time := rfl
@[simp] theorem State.withAnn_table (s : State) (v : Annunciator) : (s.withAnn v).table = s.table := rfl
@[simp] theorem State.withAnn_burners (s : State) (v : Annunciator) : (s.withAnn v).burners = s.burners := rfl
@[simp] theorem State.withAnn_app (s : State) (v : Annunciator) : (s.withAnn v).app = s.app := rfl
@[simp] theorem State.withAnn_ann (s : State) (v : Annunciator) : (s.withAnn v).ann = v := rfl
@[simp] theorem State.withAnn_settings (s : State) (v : Annunciator) : (s.withAnn v).settings = s.settings := rfl
@[simp] theorem State.withAnn_snap (s : State) (v : Annunciator) : (s.withAnn v).snap = s.snap := rfl
@[simp] theorem State.withAnn_panel (s : State) (v : Annunciator) : (s.withAnn v).panel = s.panel := rfl
@[simp] theorem State.withAnn_remote (s : State) (v : Annunciator) : (s.withAnn v).remote = s.remote := rfl
@[simp] theorem State.withAnn_lastServed (s : State) (v : Annunciator) : (s.withAnn v).lastServed = s.lastServed := rfl
@[simp] theorem State.withAnn_memory (s : State) (v : Annunciator) : (s.withAnn v).memory = s.memory := rfl
@[simp] theorem State.withAnn_link (s : State) (v : Annunciator) : (s.withAnn v).link = s.link := rfl
@[simp] theorem State.withAnn_todo (s : State) (v : Annunciator) : (s.withAnn v).todo = s.todo := rfl
@[simp] theorem State.withAnn_pending (s : State) (v : Annunciator) : (s.withAnn v).pending = s.pending := rfl

@[simp] theorem State.withSettings_held (s : State) (v : SettingsUnit) : (s.withSettings v).held = s.held := rfl
@[simp] theorem State.withSettings_time (s : State) (v : SettingsUnit) : (s.withSettings v).time = s.time := rfl
@[simp] theorem State.withSettings_table (s : State) (v : SettingsUnit) : (s.withSettings v).table = s.table := rfl
@[simp] theorem State.withSettings_burners (s : State) (v : SettingsUnit) : (s.withSettings v).burners = s.burners := rfl
@[simp] theorem State.withSettings_app (s : State) (v : SettingsUnit) : (s.withSettings v).app = s.app := rfl
@[simp] theorem State.withSettings_ann (s : State) (v : SettingsUnit) : (s.withSettings v).ann = s.ann := rfl
@[simp] theorem State.withSettings_settings (s : State) (v : SettingsUnit) : (s.withSettings v).settings = v := rfl
@[simp] theorem State.withSettings_snap (s : State) (v : SettingsUnit) : (s.withSettings v).snap = s.snap := rfl
@[simp] theorem State.withSettings_panel (s : State) (v : SettingsUnit) : (s.withSettings v).panel = s.panel := rfl
@[simp] theorem State.withSettings_remote (s : State) (v : SettingsUnit) : (s.withSettings v).remote = s.remote := rfl
@[simp] theorem State.withSettings_lastServed (s : State) (v : SettingsUnit) : (s.withSettings v).lastServed = s.lastServed := rfl
@[simp] theorem State.withSettings_memory (s : State) (v : SettingsUnit) : (s.withSettings v).memory = s.memory := rfl
@[simp] theorem State.withSettings_link (s : State) (v : SettingsUnit) : (s.withSettings v).link = s.link := rfl
@[simp] theorem State.withSettings_todo (s : State) (v : SettingsUnit) : (s.withSettings v).todo = s.todo := rfl
@[simp] theorem State.withSettings_pending (s : State) (v : SettingsUnit) : (s.withSettings v).pending = s.pending := rfl

@[simp] theorem State.withSnap_held (s : State) (v : SnapshotBuffer) : (s.withSnap v).held = s.held := rfl
@[simp] theorem State.withSnap_time (s : State) (v : SnapshotBuffer) : (s.withSnap v).time = s.time := rfl
@[simp] theorem State.withSnap_table (s : State) (v : SnapshotBuffer) : (s.withSnap v).table = s.table := rfl
@[simp] theorem State.withSnap_burners (s : State) (v : SnapshotBuffer) : (s.withSnap v).burners = s.burners := rfl
@[simp] theorem State.withSnap_app (s : State) (v : SnapshotBuffer) : (s.withSnap v).app = s.app := rfl
@[simp] theorem State.withSnap_ann (s : State) (v : SnapshotBuffer) : (s.withSnap v).ann = s.ann := rfl
@[simp] theorem State.withSnap_settings (s : State) (v : SnapshotBuffer) : (s.withSnap v).settings = s.settings := rfl
@[simp] theorem State.withSnap_snap (s : State) (v : SnapshotBuffer) : (s.withSnap v).snap = v := rfl
@[simp] theorem State.withSnap_panel (s : State) (v : SnapshotBuffer) : (s.withSnap v).panel = s.panel := rfl
@[simp] theorem State.withSnap_remote (s : State) (v : SnapshotBuffer) : (s.withSnap v).remote = s.remote := rfl
@[simp] theorem State.withSnap_lastServed (s : State) (v : SnapshotBuffer) : (s.withSnap v).lastServed = s.lastServed := rfl
@[simp] theorem State.withSnap_memory (s : State) (v : SnapshotBuffer) : (s.withSnap v).memory = s.memory := rfl
@[simp] theorem State.withSnap_link (s : State) (v : SnapshotBuffer) : (s.withSnap v).link = s.link := rfl
@[simp] theorem State.withSnap_todo (s : State) (v : SnapshotBuffer) : (s.withSnap v).todo = s.todo := rfl
@[simp] theorem State.withSnap_pending (s : State) (v : SnapshotBuffer) : (s.withSnap v).pending = s.pending := rfl

@[simp] theorem State.withPanel_held (s : State) (v : PanelPort) : (s.withPanel v).held = s.held := rfl
@[simp] theorem State.withPanel_time (s : State) (v : PanelPort) : (s.withPanel v).time = s.time := rfl
@[simp] theorem State.withPanel_table (s : State) (v : PanelPort) : (s.withPanel v).table = s.table := rfl
@[simp] theorem State.withPanel_burners (s : State) (v : PanelPort) : (s.withPanel v).burners = s.burners := rfl
@[simp] theorem State.withPanel_app (s : State) (v : PanelPort) : (s.withPanel v).app = s.app := rfl
@[simp] theorem State.withPanel_ann (s : State) (v : PanelPort) : (s.withPanel v).ann = s.ann := rfl
@[simp] theorem State.withPanel_settings (s : State) (v : PanelPort) : (s.withPanel v).settings = s.settings := rfl
@[simp] theorem State.withPanel_snap (s : State) (v : PanelPort) : (s.withPanel v).snap = s.snap := rfl
@[simp] theorem State.withPanel_panel (s : State) (v : PanelPort) : (s.withPanel v).panel = v := rfl
@[simp] theorem State.withPanel_remote (s : State) (v : PanelPort) : (s.withPanel v).remote = s.remote := rfl
@[simp] theorem State.withPanel_lastServed (s : State) (v : PanelPort) : (s.withPanel v).lastServed = s.lastServed := rfl
@[simp] theorem State.withPanel_memory (s : State) (v : PanelPort) : (s.withPanel v).memory = s.memory := rfl
@[simp] theorem State.withPanel_link (s : State) (v : PanelPort) : (s.withPanel v).link = s.link := rfl
@[simp] theorem State.withPanel_todo (s : State) (v : PanelPort) : (s.withPanel v).todo = s.todo := rfl
@[simp] theorem State.withPanel_pending (s : State) (v : PanelPort) : (s.withPanel v).pending = s.pending := rfl

@[simp] theorem State.withRemote_held (s : State) (v : RemotePort) : (s.withRemote v).held = s.held := rfl
@[simp] theorem State.withRemote_time (s : State) (v : RemotePort) : (s.withRemote v).time = s.time := rfl
@[simp] theorem State.withRemote_table (s : State) (v : RemotePort) : (s.withRemote v).table = s.table := rfl
@[simp] theorem State.withRemote_burners (s : State) (v : RemotePort) : (s.withRemote v).burners = s.burners := rfl
@[simp] theorem State.withRemote_app (s : State) (v : RemotePort) : (s.withRemote v).app = s.app := rfl
@[simp] theorem State.withRemote_ann (s : State) (v : RemotePort) : (s.withRemote v).ann = s.ann := rfl
@[simp] theorem State.withRemote_settings (s : State) (v : RemotePort) : (s.withRemote v).settings = s.settings := rfl
@[simp] theorem State.withRemote_snap (s : State) (v : RemotePort) : (s.withRemote v).snap = s.snap := rfl
@[simp] theorem State.withRemote_panel (s : State) (v : RemotePort) : (s.withRemote v).panel = s.panel := rfl
@[simp] theorem State.withRemote_remote (s : State) (v : RemotePort) : (s.withRemote v).remote = v := rfl
@[simp] theorem State.withRemote_lastServed (s : State) (v : RemotePort) : (s.withRemote v).lastServed = s.lastServed := rfl
@[simp] theorem State.withRemote_memory (s : State) (v : RemotePort) : (s.withRemote v).memory = s.memory := rfl
@[simp] theorem State.withRemote_link (s : State) (v : RemotePort) : (s.withRemote v).link = s.link := rfl
@[simp] theorem State.withRemote_todo (s : State) (v : RemotePort) : (s.withRemote v).todo = s.todo := rfl
@[simp] theorem State.withRemote_pending (s : State) (v : RemotePort) : (s.withRemote v).pending = s.pending := rfl

@[simp] theorem State.withTime_held (s : State) (v : TimeBase) : (s.withTime v).held = s.held := rfl
@[simp] theorem State.withTime_time (s : State) (v : TimeBase) : (s.withTime v).time = v := rfl
@[simp] theorem State.withTime_table (s : State) (v : TimeBase) : (s.withTime v).table = s.table := rfl
@[simp] theorem State.withTime_burners (s : State) (v : TimeBase) : (s.withTime v).burners = s.burners := rfl
@[simp] theorem State.withTime_app (s : State) (v : TimeBase) : (s.withTime v).app = s.app := rfl
@[simp] theorem State.withTime_ann (s : State) (v : TimeBase) : (s.withTime v).ann = s.ann := rfl
@[simp] theorem State.withTime_settings (s : State) (v : TimeBase) : (s.withTime v).settings = s.settings := rfl
@[simp] theorem State.withTime_snap (s : State) (v : TimeBase) : (s.withTime v).snap = s.snap := rfl
@[simp] theorem State.withTime_panel (s : State) (v : TimeBase) : (s.withTime v).panel = s.panel := rfl
@[simp] theorem State.withTime_remote (s : State) (v : TimeBase) : (s.withTime v).remote = s.remote := rfl
@[simp] theorem State.withTime_lastServed (s : State) (v : TimeBase) : (s.withTime v).lastServed = s.lastServed := rfl
@[simp] theorem State.withTime_memory (s : State) (v : TimeBase) : (s.withTime v).memory = s.memory := rfl
@[simp] theorem State.withTime_link (s : State) (v : TimeBase) : (s.withTime v).link = s.link := rfl
@[simp] theorem State.withTime_todo (s : State) (v : TimeBase) : (s.withTime v).todo = s.todo := rfl
@[simp] theorem State.withTime_pending (s : State) (v : TimeBase) : (s.withTime v).pending = s.pending := rfl

@[simp] theorem State.withMemory_held (s : State) (v : List Host.Cell) : (s.withMemory v).held = s.held := rfl
@[simp] theorem State.withMemory_time (s : State) (v : List Host.Cell) : (s.withMemory v).time = s.time := rfl
@[simp] theorem State.withMemory_table (s : State) (v : List Host.Cell) : (s.withMemory v).table = s.table := rfl
@[simp] theorem State.withMemory_burners (s : State) (v : List Host.Cell) : (s.withMemory v).burners = s.burners := rfl
@[simp] theorem State.withMemory_app (s : State) (v : List Host.Cell) : (s.withMemory v).app = s.app := rfl
@[simp] theorem State.withMemory_ann (s : State) (v : List Host.Cell) : (s.withMemory v).ann = s.ann := rfl
@[simp] theorem State.withMemory_settings (s : State) (v : List Host.Cell) : (s.withMemory v).settings = s.settings := rfl
@[simp] theorem State.withMemory_snap (s : State) (v : List Host.Cell) : (s.withMemory v).snap = s.snap := rfl
@[simp] theorem State.withMemory_panel (s : State) (v : List Host.Cell) : (s.withMemory v).panel = s.panel := rfl
@[simp] theorem State.withMemory_remote (s : State) (v : List Host.Cell) : (s.withMemory v).remote = s.remote := rfl
@[simp] theorem State.withMemory_lastServed (s : State) (v : List Host.Cell) : (s.withMemory v).lastServed = s.lastServed := rfl
@[simp] theorem State.withMemory_memory (s : State) (v : List Host.Cell) : (s.withMemory v).memory = v := rfl
@[simp] theorem State.withMemory_link (s : State) (v : List Host.Cell) : (s.withMemory v).link = s.link := rfl
@[simp] theorem State.withMemory_todo (s : State) (v : List Host.Cell) : (s.withMemory v).todo = s.todo := rfl
@[simp] theorem State.withMemory_pending (s : State) (v : List Host.Cell) : (s.withMemory v).pending = s.pending := rfl

@[simp] theorem State.withTodo_held (s : State) (v : List Work) : (s.withTodo v).held = s.held := rfl
@[simp] theorem State.withTodo_time (s : State) (v : List Work) : (s.withTodo v).time = s.time := rfl
@[simp] theorem State.withTodo_table (s : State) (v : List Work) : (s.withTodo v).table = s.table := rfl
@[simp] theorem State.withTodo_burners (s : State) (v : List Work) : (s.withTodo v).burners = s.burners := rfl
@[simp] theorem State.withTodo_app (s : State) (v : List Work) : (s.withTodo v).app = s.app := rfl
@[simp] theorem State.withTodo_ann (s : State) (v : List Work) : (s.withTodo v).ann = s.ann := rfl
@[simp] theorem State.withTodo_settings (s : State) (v : List Work) : (s.withTodo v).settings = s.settings := rfl
@[simp] theorem State.withTodo_snap (s : State) (v : List Work) : (s.withTodo v).snap = s.snap := rfl
@[simp] theorem State.withTodo_panel (s : State) (v : List Work) : (s.withTodo v).panel = s.panel := rfl
@[simp] theorem State.withTodo_remote (s : State) (v : List Work) : (s.withTodo v).remote = s.remote := rfl
@[simp] theorem State.withTodo_lastServed (s : State) (v : List Work) : (s.withTodo v).lastServed = s.lastServed := rfl
@[simp] theorem State.withTodo_memory (s : State) (v : List Work) : (s.withTodo v).memory = s.memory := rfl
@[simp] theorem State.withTodo_link (s : State) (v : List Work) : (s.withTodo v).link = s.link := rfl
@[simp] theorem State.withTodo_todo (s : State) (v : List Work) : (s.withTodo v).todo = v := rfl
@[simp] theorem State.withTodo_pending (s : State) (v : List Work) : (s.withTodo v).pending = s.pending := rfl

@[simp] theorem State.withLink_held (s : State) (v : List Transfer) : (s.withLink v).held = s.held := by
  unfold State.withLink; split <;> rfl
@[simp] theorem State.withLink_time (s : State) (v : List Transfer) : (s.withLink v).time = s.time := by
  unfold State.withLink; split <;> rfl
@[simp] theorem State.withLink_table (s : State) (v : List Transfer) : (s.withLink v).table = s.table := by
  unfold State.withLink; split <;> rfl
@[simp] theorem State.withLink_burners (s : State) (v : List Transfer) : (s.withLink v).burners = s.burners := by
  unfold State.withLink; split <;> rfl
@[simp] theorem State.withLink_app (s : State) (v : List Transfer) : (s.withLink v).app = s.app := by
  unfold State.withLink; split <;> rfl
@[simp] theorem State.withLink_ann (s : State) (v : List Transfer) : (s.withLink v).ann = s.ann := by
  unfold State.withLink; split <;> rfl
@[simp] theorem State.withLink_settings (s : State) (v : List Transfer) : (s.withLink v).settings = s.settings := by
  unfold State.withLink; split <;> rfl
@[simp] theorem State.withLink_snap (s : State) (v : List Transfer) : (s.withLink v).snap = s.snap := by
  unfold State.withLink; split <;> rfl
@[simp] theorem State.withLink_panel (s : State) (v : List Transfer) : (s.withLink v).panel = s.panel := by
  unfold State.withLink; split <;> rfl
@[simp] theorem State.withLink_remote (s : State) (v : List Transfer) : (s.withLink v).remote = s.remote := by
  unfold State.withLink; split <;> rfl
@[simp] theorem State.withLink_lastServed (s : State) (v : List Transfer) : (s.withLink v).lastServed = s.lastServed := by
  unfold State.withLink; split <;> rfl
@[simp] theorem State.withLink_memory (s : State) (v : List Transfer) : (s.withLink v).memory = s.memory := by
  unfold State.withLink; split <;> rfl
@[simp] theorem State.withLink_todo (s : State) (v : List Transfer) : (s.withLink v).todo = s.todo := by
  unfold State.withLink; split <;> rfl
@[simp] theorem State.withLink_pending (s : State) (v : List Transfer) : (s.withLink v).pending = s.pending := by
  unfold State.withLink; split <;> rfl
@[simp] theorem State.withLink_nil (s : State) : s.withLink [] = s := rfl
@[simp] theorem State.withLink_cons (s : State) (x : Transfer) (v : List Transfer) :
    s.withLink (x :: v) = { s with link := x :: v } := rfl

end Sys2Proof.Machine
end

