-- ==== Sys2Proof/Laws/Table.lean ====
section
/-! SUPPORT. Reads after writes of the Schedule Table: slots, heads, queues. -/

namespace Sys2Proof.Machine

@[simp] theorem Table.rec?_zero (t : Table) : t.rec? 0 = none := rfl

/-- A record of the table stands in a slot of the list. -/
theorem Table.rec?_some_pos {t : Table} {k : Nat} {r : Record} (h : t.rec? k = some r) :
    0 < k ∧ k - 1 < t.slots.length := by
  unfold Table.rec? at h
  split at h
  · simp at h
  · refine ⟨by omega, ?_⟩
    by_contra hlen
    rw [List.getD_eq_getElem?_getD, List.getElem?_eq_none (by omega)] at h
    simp at h

/-- A slot reads as what was put there. -/
theorem Table.rec?_put_same (t : Table) {k : Nat} (r : Option Record) (h : 0 < k) (hk : k - 1 < t.slots.length) :
    (t.put k r).rec? k = r := by
  simp [Table.put, Table.rec?, Nat.pos_iff_ne_zero.mp h, List.getD_eq_getElem?_getD, hk]

/-- Every other slot is left alone. -/
theorem Table.rec?_put_other (t : Table) {j k : Nat} (r : Option Record) (h : j ≠ k) :
    (t.put k r).rec? j = t.rec? j := by
  unfold Table.put Table.rec?
  split
  · rfl
  · split
    · rfl
    · simp only [List.getD_eq_getElem?_getD]
      rw [List.getElem?_set_ne (by omega)]

@[simp] theorem Table.put_heads (t : Table) (k r) : (t.put k r).heads = t.heads := by
  unfold Table.put; split <;> rfl
@[simp] theorem Table.put_queues (t : Table) (k r) : (t.put k r).queues = t.queues := by
  unfold Table.put; split <;> rfl
@[simp] theorem Table.put_length (t : Table) (k r) : (t.put k r).slots.length = t.slots.length := by
  unfold Table.put; split <;> simp

@[simp] theorem Table.head_put (t : Table) (k r st) : (t.put k r).head st = t.head st := by
  simp [Table.head]
@[simp] theorem Table.queue_put (t : Table) (k r st) : (t.put k r).queue st = t.queue st := by
  simp [Table.queue]

/-- A changed record, at its own slot and elsewhere. -/
theorem Table.rec?_modify (t : Table) (k j : Nat) (f : Record → Record) :
    (t.modify k f).rec? j = if j = k then (t.rec? k).map f else t.rec? j := by
  unfold Table.modify
  split
  · next h => split <;> simp_all
  · next r h =>
    obtain ⟨h0, hl⟩ := Table.rec?_some_pos h
    split
    · next hj => rw [hj, Table.rec?_put_same t _ h0 hl, h]; rfl
    · next hj => exact Table.rec?_put_other t _ hj

@[simp] theorem Table.head_modify (t : Table) (k f st) : (t.modify k f).head st = t.head st := by
  unfold Table.modify; split <;> simp
@[simp] theorem Table.queue_modify (t : Table) (k f st) : (t.modify k f).queue st = t.queue st := by
  unfold Table.modify; split <;> simp

@[simp] theorem Table.rec?_setHead (t : Table) (st k j) : (t.setHead st k).rec? j = t.rec? j := rfl
@[simp] theorem Table.queue_setHead (t : Table) (st k j) : (t.setHead st k).queue j = t.queue j := rfl
@[simp] theorem Table.rec?_setQueue (t : Table) (st q j) : (t.setQueue st q).rec? j = t.rec? j := rfl
@[simp] theorem Table.head_setQueue (t : Table) (st q j) : (t.setQueue st q).head j = t.head j := rfl

theorem Table.head_setHead_same (t : Table) {st : Nat} (k : Nat) (h : st < t.heads.length) :
    (t.setHead st k).head st = k := by
  simp [Table.setHead, Table.head, List.getD_eq_getElem?_getD, h]
theorem Table.head_setHead_other (t : Table) {st j : Nat} (k : Nat) (h : j ≠ st) :
    (t.setHead st k).head j = t.head j := by
  simp [Table.setHead, Table.head, List.getD_eq_getElem?_getD, List.getElem?_set_ne (Ne.symm h)]
theorem Table.queue_setQueue_same (t : Table) {st : Nat} (q : List Nat) (h : st < t.queues.length) :
    (t.setQueue st q).queue st = q := by
  simp [Table.setQueue, Table.queue, List.getD_eq_getElem?_getD, h]
theorem Table.queue_setQueue_other (t : Table) {st j : Nat} (q : List Nat) (h : j ≠ st) :
    (t.setQueue st q).queue j = t.queue j := by
  simp [Table.setQueue, Table.queue, List.getD_eq_getElem?_getD, List.getElem?_set_ne (Ne.symm h)]

/-- The slots where a property holds, ascending and each once, are those whose record has it. -/
theorem Table.mem_slotsWhere {t : Table} {p : Record → Bool} {k : Nat} :
    k ∈ t.slotsWhere p ↔ k ∈ allSlots ∧ ∃ r, t.rec? k = some r ∧ p r = true := by
  unfold Table.slotsWhere
  rw [List.mem_filter]
  cases h : t.rec? k <;> simp

theorem mem_allSlots {k : Nat} : k ∈ allSlots ↔ 1 ≤ k ∧ k ≤ Config.slotCount := by
  simp only [allSlots, List.mem_map, List.mem_range]
  exact ⟨fun ⟨i, hi, he⟩ => by omega, fun h => ⟨k - 1, by omega, by omega⟩⟩

/-- A record of the whole state after one record changes. -/
theorem State.rec?_modify (s : State) (k j : Nat) (f : Record → Record) :
    (s.modify k f).table.rec? j = if j = k then (s.table.rec? k).map f else s.table.rec? j :=
  Table.rec?_modify s.table k j f

end Sys2Proof.Machine
end

