-- ==== Sys2Proof/Laws/Alerts.lean ====
section
/-! SUPPORT. The annunciator's operations: what each keeps of the order of contexts, and what an evaluation leaves behind. -/

namespace Sys2Proof.Machine

/-! ### Order of contexts (R120) -/

/-- Only the current context, up to its muted flag, and the stack decide the order. -/
theorem Annunciator.Ordered.of_same {a b : Annunciator} (h : a.Ordered)
    (hc : b.current.map Context.priority = a.current.map Context.priority) (hs : b.stack = a.stack) : b.Ordered := by
  have hp : (b.current.toList ++ b.stack).map Context.priority = (a.current.toList ++ a.stack).map Context.priority := by
    rw [hs, List.map_append, List.map_append]
    cases hb : b.current <;> cases ha : a.current <;> simp_all
  refine ⟨by rw [hs]; exact h.depth, by rw [hp]; exact h.falling, fun hn => ?_⟩
  rw [hs]
  refine h.based ?_
  cases ha : a.current
  · rfl
  · rw [hn, ha] at hc; simp at hc

theorem Annunciator.quiet_ordered : Annunciator.quiet.Ordered := ⟨by decide, by decide, by decide⟩

theorem Annunciator.Ordered.mute {a : Annunciator} (h : a.Ordered) : a.mute.Ordered :=
  h.of_same (by cases hc : a.current <;> simp [Annunciator.mute, hc]) rfl

/-- Counting a slice touches only the timer. -/
theorem Annunciator.count_current (a : Annunciator) : a.count.current = a.current ∧ a.count.stack = a.stack := by
  unfold Annunciator.count; split <;> exact ⟨rfl, rfl⟩

/-- The pattern's advance touches only the phase. -/
theorem Annunciator.advance_current (a : Annunciator) : a.advance.current = a.current ∧ a.advance.stack = a.stack := by
  unfold Annunciator.advance
  split
  · exact ⟨rfl, rfl⟩
  · split <;> exact ⟨rfl, rfl⟩

theorem Annunciator.Ordered.tick {a : Annunciator} (h : a.Ordered) (u : SettingsUnit) : (a.tick u).Ordered := by
  have hc := a.count_current
  have hcount : a.count.Ordered := h.of_same (by rw [hc.1]) hc.2
  have hv := a.count.advance_current
  unfold Annunciator.tick
  split
  · exact hcount.mute.of_same rfl rfl
  · exact hcount.of_same (b := { a.count.advance with ousted := none }) (by rw [hv.1]) hv.2

/-- With the current context gone, the top surviving saved context becomes current with what it saved, and sounds from 0 (R123). -/
theorem Annunciator.prune_pops {a : Annunciator} {t : Table} {u : SettingsUnit} {c d : Context} {rest : List Context}
    (h : a.current = some c) (hc : c.alive t u = false) (hs : a.stack.filter (Context.alive t u) = d :: rest) :
    a.prune t u = { current := some d, stack := rest, timer := 0, phase := 0, fresh := !d.muted, ousted := none } := by
  simp only [Annunciator.prune, h, hc, hs, Bool.false_eq_true, if_false, Annunciator.pop, Annunciator.present]

/-- A current context whose alert is still pending stays, and so does the order of the saved ones that survive (R124). -/
theorem Annunciator.prune_keeps {a : Annunciator} {t : Table} {u : SettingsUnit} {c : Context}
    (h : a.current = some c) (hc : c.alive t u = true) :
    a.prune t u = { a with stack := a.stack.filter (Context.alive t u) } := by
  simp only [Annunciator.prune, h, hc, if_true]

/-- The contexts that stay after some are taken out keep their order. -/
theorem Annunciator.Ordered.prune {a : Annunciator} (h : a.Ordered) (t : Table) (u : SettingsUnit) : (a.prune t u).Ordered := by
  obtain ⟨hd, hf, hb⟩ := h
  have hlen : (a.stack.filter (Context.alive t u)).length ≤ 3 := (List.length_filter_le _ _).trans hd
  unfold Annunciator.prune
  cases hc : a.current with
  | none => simp only [hb hc, List.filter_nil]; exact ⟨by simp, by simp, by simp⟩
  | some c =>
    rw [hc] at hf
    simp only [Option.toList_some, List.singleton_append, List.map_cons, List.pairwise_cons] at hf
    have hsub : (a.stack.filter (Context.alive t u)).Sublist a.stack := List.filter_sublist
    have hpair : ((a.stack.filter (Context.alive t u)).map Context.priority).Pairwise (fun x y => y < x) :=
      hf.2.sublist (hsub.map _)
    simp only []
    split
    · refine ⟨hlen, ?_, by simp⟩
      simp only [Option.toList_some, List.singleton_append, List.map_cons, List.pairwise_cons]
      exact ⟨fun x hx => hf.1 x ((hsub.map _).subset hx), hpair⟩
    · unfold Annunciator.pop
      simp only []
      split
      · next d rest hs =>
        rw [hs] at hlen hpair
        exact ⟨by simp only [Annunciator.present, List.length_cons] at *; omega, by simpa [Annunciator.present] using hpair,
          by simp [Annunciator.present]⟩
      · next hs => exact ⟨by rw [hs]; decide, by rw [hs]; exact List.Pairwise.nil, fun _ => hs⟩

/-- An evaluation keeps the order: it pushes only below a higher priority (R122). -/
theorem Annunciator.Ordered.evaluate {a : Annunciator} (h : a.Ordered) (u : SettingsUnit) (best : Option (Nat × AlertKind)) :
    (a.evaluate u best).Ordered := by
  unfold Annunciator.evaluate
  split
  · exact h
  · next b =>
    split
    · next hc => exact ⟨by simp [Annunciator.present, h.based hc], by simp [Annunciator.present, h.based hc],
        by simp [Annunciator.present]⟩
    · next c hc =>
      split
      · exact h
      · split
        · exact h
        · next hlt =>
          obtain ⟨hd, hf, -⟩ := h
          rw [hc] at hf
          simp only [Option.toList_some, List.singleton_append, List.map_cons, List.pairwise_cons] at hf
          have hsub : ((a.stack.filter (fun d => !d.presents b)).take 2).Sublist a.stack :=
            (List.take_sublist _ _).trans List.filter_sublist
          refine ⟨?_, ?_, by simp [Annunciator.present]⟩
          · simp only [Annunciator.present, pushContext, List.length_cons, List.length_take]; omega
          · simp only [Annunciator.present, pushContext, Option.toList_some, List.singleton_append, List.map_cons,
              List.pairwise_cons, Context.form]
            refine ⟨?_, fun x hx => hf.1 x ((hsub.map _).subset hx), hf.2.sublist (hsub.map _)⟩
            intro x hx
            rcases List.mem_cons.mp hx with rfl | hx
            · omega
            · have := hf.1 x ((hsub.map _).subset hx); omega

/-- The Alert Unit's event keeps the order (R121). -/
theorem State.settle_ordered {s : State} (h : s.ann.Ordered) : s.settle.ann.Ordered :=
  (h.prune s.table s.settings).evaluate _ _

theorem settleFrom_ordered {t : State} (h : t.ann.Ordered) (b : State) : (settleFrom b t).ann.Ordered := by
  unfold settleFrom
  split
  · exact h
  · exact State.settle_ordered h

/-! ### What an evaluation leaves behind (R122, R123) -/

/-- The best alert is pending, at a priority above 0. -/
theorem mem_pendingAlerts {t : Table} {u : SettingsUnit} {v : Nat → Bool} {a : Nat × AlertKind} (h : a ∈ pendingAlerts t u v) :
    t.hasAlert a.1 a.2 = true ∧ 1 ≤ u.priority a.2 := by
  unfold pendingAlerts at h
  obtain ⟨k, -, hk⟩ := List.mem_flatMap.mp h
  cases hr : t.rec? k with
  | none => simp [hr] at hk
  | some r =>
    simp only [hr] at hk
    split at hk
    · simp only [List.mem_map, List.mem_filter, Bool.and_eq_true, decide_eq_true_eq] at hk
      obtain ⟨kind, ⟨-, hk⟩, rfl⟩ := hk
      exact ⟨by simp [Table.hasAlert, hr, hk.1], hk.2⟩
    · simp at hk

theorem betterAlert_fold (u : SettingsUnit) (l : List (Nat × AlertKind)) (b : Option (Nat × AlertKind)) :
    l.foldl (betterAlert u) b = b ∨ ∃ a ∈ l, l.foldl (betterAlert u) b = some a := by
  induction l generalizing b with
  | nil => exact .inl rfl
  | cons x l ih =>
    rw [List.foldl_cons]
    have hx : betterAlert u b x = b ∨ betterAlert u b x = some x := by
      unfold betterAlert
      split
      · exact .inr rfl
      · split
        · exact .inr rfl
        · exact .inl rfl
    rcases ih (betterAlert u b x) with h | ⟨a, ha, h⟩
    · rcases hx with hx | hx
      · exact .inl (h.trans hx)
      · exact .inr ⟨x, List.mem_cons_self, h.trans hx⟩
    · exact .inr ⟨a, List.mem_cons_of_mem _ ha, h⟩

theorem bestAlert_pending {t : Table} {u : SettingsUnit} {v : Nat → Bool} {a : Nat × AlertKind} (h : bestAlert t u v = some a) :
    t.hasAlert a.1 a.2 = true ∧ 1 ≤ u.priority a.2 := by
  unfold bestAlert at h
  rcases betterAlert_fold u (pendingAlerts t u v) none with hn | ⟨b, hb, hs⟩
  · rw [hn] at h; exact absurd h (by simp)
  · rw [hs] at h; obtain rfl := Option.some.inj h; exact mem_pendingAlerts hb

/-- After the contexts of cleared alerts are taken out, every context's alert is pending (R123, R124). -/
theorem Annunciator.prune_alive (a : Annunciator) (t : Table) (u : SettingsUnit) :
    ∀ c ∈ (a.prune t u).current.toList ++ (a.prune t u).stack, c.alive t u = true := by
  have hs : ∀ c ∈ a.stack.filter (Context.alive t u), c.alive t u = true := fun c hc => (List.mem_filter.mp hc).2
  intro c hc
  unfold Annunciator.prune at hc
  cases hcur : a.current with
  | none => simp only [hcur, Option.toList_none, List.nil_append] at hc; exact hs c hc
  | some d =>
    simp only [hcur] at hc
    split at hc
    · next hd =>
      simp only [Option.toList_some, List.singleton_append, List.mem_cons] at hc
      rcases hc with rfl | hc
      · exact hd
      · exact hs c hc
    · unfold Annunciator.pop at hc
      simp only [] at hc
      split at hc
      · next e rest he =>
        simp only [Annunciator.present, Option.toList_some, List.singleton_append] at hc
        exact hs c (by rw [he]; exact hc)
      · next he => simp [he] at hc

/-- An evaluation keeps every context's alert pending, and makes the best alert current unless the current context has at least
its priority (R122). -/
theorem Annunciator.evaluate_settled {a : Annunciator} {t : Table} {u : SettingsUnit} {best : Option (Nat × AlertKind)}
    (h : ∀ c ∈ a.current.toList ++ a.stack, c.alive t u = true)
    (hb : ∀ b, best = some b → t.hasAlert b.1 b.2 = true ∧ 1 ≤ u.priority b.2) :
    (∀ c ∈ (a.evaluate u best).current.toList ++ (a.evaluate u best).stack, c.alive t u = true)
    ∧ ∀ b, best = some b → ∃ c, (a.evaluate u best).current = some c ∧ (c.presents b = true ∨ u.priority b.2 ≤ c.priority) := by
  have form : ∀ b, best = some b → (Context.form u b).alive t u = true := fun b hbb => by
    simp [Context.alive, Context.form, hb b hbb]
  unfold Annunciator.evaluate
  cases best with
  | none => exact ⟨h, by simp⟩
  | some b =>
    cases hc : a.current with
    | none =>
      refine ⟨?_, fun b' hb' => ⟨_, rfl, ?_⟩⟩
      · intro c hm
        simp only [Annunciator.present, Option.toList_some, List.singleton_append, List.mem_cons] at hm
        rcases hm with rfl | hm
        · exact form b rfl
        · exact h c (List.mem_append_right _ hm)
      · obtain rfl := Option.some.inj hb'; simp [Context.presents, Context.form]
    | some c =>
      simp only []
      split
      · next hp => exact ⟨h, fun b' hb' => ⟨c, hc, by obtain rfl := Option.some.inj hb'; exact .inl hp⟩⟩
      · split
        · next hle => exact ⟨h, fun b' hb' => ⟨c, hc, by obtain rfl := Option.some.inj hb'; exact .inr hle⟩⟩
        · refine ⟨?_, fun b' hb' => ⟨_, rfl, ?_⟩⟩
          · intro d hm
            simp only [Annunciator.present, pushContext, Option.toList_some, List.singleton_append, List.mem_cons] at hm
            rcases hm with rfl | rfl | hm
            · exact form b rfl
            · exact h d (by simp [hc])
            · exact h d (List.mem_append_right _ (List.mem_of_mem_filter (List.mem_of_mem_take hm)))
          · obtain rfl := Option.some.inj hb'; simp [Context.presents, Context.form]

/-- An Alert Unit event leaves every context's alert pending and no best alert waiting above the current context. -/
theorem State.settle_settled (s : State) :
    (∀ c ∈ s.settle.ann.current.toList ++ s.settle.ann.stack, c.alive s.settle.table s.settle.settings = true)
    ∧ ∀ b, bestAlert s.settle.table s.settle.settings (fun _ => true) = some b →
      ∃ c, s.settle.ann.current = some c ∧ (c.presents b = true ∨ s.settle.settings.priority b.2 ≤ c.priority) :=
  Annunciator.evaluate_settled (Annunciator.prune_alive _ _ _) (fun _ h => bestAlert_pending h)

/-! ### Tables with the same flags -/

/-- The flags of a slot are its row of the pending table. -/
theorem Table.hasAlert_pendingTable (t : Table) (k : Nat) (kind : AlertKind) :
    t.hasAlert k kind = if k = 0 then false else ((t.pendingTable[k - 1]?).getD 0#6).getLsbD kind.num := by
  unfold Table.hasAlert Table.rec? Table.pendingTable
  split
  · rfl
  · rw [List.getD_eq_getElem?_getD, List.getElem?_map]
    cases h : t.slots[k - 1]? with
    | none => simp
    | some o => cases o <;> simp [Record.hasAlert]

theorem Table.hasAlert_congr {t t' : Table} (h : t.pendingTable = t'.pendingTable) (k : Nat) (kind : AlertKind) :
    t.hasAlert k kind = t'.hasAlert k kind := by
  rw [Table.hasAlert_pendingTable, Table.hasAlert_pendingTable, h]

end Sys2Proof.Machine
end

