-- ==== Sys2Proof/Laws/Checks.lean ====
section
/-! SUPPORT. Checks of the invariants on a concrete state, each with the lemma that a check passed is the invariant. -/

namespace Sys2Proof.Machine

/-- A record's fields in the ranges of Record.Sound. -/
def Record.soundCheck (r : Record) : Bool :=
  decide (r.station < 8) && decide (1 ≤ r.stages.length) && decide (r.stages.length ≤ 8)
    && r.stages.all (fun g => decide (Config.minStage ≤ g.duration) && decide (g.duration ≤ Config.maxStage))
    && decide (r.stage ≤ r.stages.length) && (!r.isHead || decide (1 ≤ r.stage))
    && (r.state != .ended || decide (r.stage = r.stages.length))
    && (!(r.state == .running || r.state == .paused || r.state == .held)
        || (decide (1 ≤ r.remaining) && decide (r.remaining ≤ Config.maxStage)))
    && (!r.keep || r.state == .ended)

theorem Record.Sound.of_check {r : Record} (h : r.soundCheck = true) : r.Sound := by
  simp only [Record.soundCheck, Bool.and_eq_true, decide_eq_true_eq, List.all_eq_true, Bool.or_eq_true,
    bne_iff_ne, beq_iff_eq, Bool.or_eq_false_iff, beq_eq_false_iff_ne, Bool.not_eq_eq_eq_not, Bool.not_true] at h
  obtain ⟨⟨⟨⟨⟨⟨⟨⟨a, b⟩, c⟩, d⟩, e⟩, f⟩, g⟩, i⟩, j⟩ := h
  refine ⟨a, b, c, d, e, fun x => ?_, fun x => ?_, fun x => ?_, fun x => ?_⟩
  · exact f.resolve_left (by simp [x])
  · exact g.resolve_left (by simp [x])
  · exact i.resolve_left (by rcases x with x | x | x <;> simp [x])
  · exact j.resolve_left (by simp [x])

/-- One slot against the heads and queues. -/
def Table.slotCheck (t : Table) (k : Nat) (r : Record) : Bool :=
  r.soundCheck && (r.isHead == decide (t.head r.station = k)) && ((r.state == .queued) == (t.queue r.station).contains k)
    && (!r.holdsLink || (t.rec? r.start.linked).isSome) && decide (t.depth 5 k ≤ 4)

/-- One station's head and queue against the slots. -/
def Table.stationCheck (t : Table) (st : Nat) : Bool :=
  (decide (t.head st = 0) || (t.rec? (t.head st)).elim false (fun r => decide (r.station = st)))
    && (t.queue st).all (fun k => (t.rec? k).elim false (fun r => decide (r.station = st)))
    && decide (t.queue st).Nodup && ((t.queue st).isEmpty || decide (t.head st ≠ 0)) && decide (t.stationCount st ≤ 6)

/-- The whole table. -/
def Table.check (t : Table) : Bool :=
  decide (t.slots.length = Config.slotCount) && decide (t.heads.length = 8) && decide (t.queues.length = 8)
    && allSlots.all (fun k => (t.rec? k).elim true (t.slotCheck k)) && (List.range 8).all t.stationCheck

theorem Table.Consistent.of_check {t : Table} (h : t.check = true) : t.Consistent := by
  simp only [Table.check, Bool.and_eq_true, decide_eq_true_eq, List.all_eq_true, List.mem_range] at h
  obtain ⟨⟨⟨⟨hs, hh⟩, hq⟩, hk⟩, hst⟩ := h
  have slot : ∀ k r, t.rec? k = some r → t.slotCheck k r = true := by
    intro k r hr
    have hp := Table.rec?_some_pos hr
    have hm : k ∈ allSlots := mem_allSlots.mpr (by rw [hs] at hp; simp only [Config.slotCount] at *; omega)
    have := hk k hm
    rw [hr] at this
    exact this
  have stat : ∀ st, st < 8 → t.stationCheck st = true := hst
  refine ⟨hs, hh, hq, ?_, ?_, ?_, ?_, ?_, ?_, ?_, ?_, ?_, ?_⟩
  · intro k r hr
    have h := slot k r hr
    simp only [Table.slotCheck, Bool.and_eq_true] at h
    exact .of_check h.1.1.1.1
  · intro k r hr
    have h := slot k r hr
    simp only [Table.slotCheck, Bool.and_eq_true, beq_iff_eq] at h
    rw [h.1.1.1.2, decide_eq_true_eq]
  · intro st hlt hne
    have h := stat st hlt
    simp only [Table.stationCheck, Bool.and_eq_true, Bool.or_eq_true, decide_eq_true_eq] at h
    have h1 := h.1.1.1.1.resolve_left hne
    cases hr : t.rec? (t.head st) with
    | none => simp [hr] at h1
    | some r => exact ⟨r, rfl, by simpa [hr] using h1⟩
  · intro k r hr
    have h := slot k r hr
    simp only [Table.slotCheck, Bool.and_eq_true, beq_iff_eq] at h
    have h2 := h.1.1.2
    constructor
    · intro hq; simpa [hq] using h2
    · intro hm
      have : (t.queue r.station).contains k = true := by simpa using hm
      rw [this] at h2; simpa using h2
  · intro st k hlt hm
    have h := stat st hlt
    simp only [Table.stationCheck, Bool.and_eq_true, List.all_eq_true] at h
    have h1 := h.1.1.1.2 k hm
    cases hr : t.rec? k with
    | none => simp [hr] at h1
    | some r => exact ⟨r, rfl, by simpa [hr] using h1⟩
  · intro st
    by_cases hlt : st < 8
    · have h := stat st hlt
      simp only [Table.stationCheck, Bool.and_eq_true, decide_eq_true_eq] at h
      exact h.1.1.2
    · unfold Table.queue
      rw [List.getD_eq_getElem?_getD, List.getElem?_eq_none (by omega)]
      exact List.nodup_nil
  · intro st hlt hne
    have h := stat st hlt
    simp only [Table.stationCheck, Bool.and_eq_true, Bool.or_eq_true, decide_eq_true_eq, List.isEmpty_iff] at h
    exact h.1.2.resolve_left hne
  · intro st hlt
    have h := stat st hlt
    simp only [Table.stationCheck, Bool.and_eq_true, decide_eq_true_eq] at h
    exact h.2
  · intro k r hr hl
    have h := slot k r hr
    simp only [Table.slotCheck, Bool.and_eq_true, Bool.or_eq_true, Bool.not_eq_true', Option.isSome_iff_exists] at h
    exact h.1.2.resolve_left (by simp [hl])
  · intro k r hr
    have h := slot k r hr
    simp only [Table.slotCheck, Bool.and_eq_true, decide_eq_true_eq] at h
    exact h.2

/-- The burner levels of a concrete state. -/
def State.levelsCheck (s : State) : Bool :=
  decide (s.burners.length = 6) && (List.range 6).all (fun st =>
    decide ((s.burner st).level = s.table.levelOf st)
      && (decide ((s.burner st).level = 0) || decide ((s.burner st).source = s.table.head st)))

theorem State.LevelsFollow.of_check {s : State} (h : s.levelsCheck = true) : s.LevelsFollow := by
  simp only [State.levelsCheck, Bool.and_eq_true, decide_eq_true_eq, List.all_eq_true, List.mem_range, Bool.or_eq_true] at h
  exact ⟨h.1, fun st hst => (h.2 st hst).1, fun st hst hne => (h.2 st hst).2.resolve_left hne⟩

/-- The loads of a concrete state. -/
def State.loadsCheck (s : State) : Bool :=
  decide (s.app.elements.length = 5) && decide (s.time.slice < 10) && decide (s.time.second < 10)
    && (List.range Config.periodSlices).all (fun j => decide (s.app.load j ≤ s.app.sliceBudget))

theorem State.LoadsFit.of_check {s : State} (h : s.loadsCheck = true) : s.LoadsFit := by
  simp only [State.loadsCheck, Bool.and_eq_true, decide_eq_true_eq, List.all_eq_true, List.mem_range] at h
  exact ⟨h.1.1.1, h.1.1.2, h.1.2, fun _ j _ hj => h.2 j hj⟩

/-- The working settings of a concrete state. -/
def SettingsUnit.rangeCheck (u : SettingsUnit) : Bool :=
  decide (u.values.length = Config.items.length) && (Config.items.zip u.values).all (fun p => itemAccepts p.1 p.2)
    && decide (u.value Config.shedId ≤ u.value Config.budgetId)

theorem SettingsUnit.InRange.of_check {u : SettingsUnit} (h : u.rangeCheck = true) : u.InRange := by
  simp only [SettingsUnit.rangeCheck, Bool.and_eq_true, decide_eq_true_eq, List.all_eq_true] at h
  exact ⟨h.1.1, h.1.2, fun _ => h.2⟩

/-- The annunciator of a concrete state in which no start-up load runs. -/
def State.settledCheck (s : State) : Bool :=
  (s.ann.current.toList ++ s.ann.stack).all (fun c => c.alive s.table s.settings)
    && (bestAlert s.table s.settings (fun _ => true)).elim true (fun b =>
      s.ann.current.elim false (fun c => c.presents b || decide (s.settings.priority b.2 ≤ c.priority)))
    && !s.awaits .loadEnd && !s.loading

theorem State.Settled.of_check {s : State} (h : s.settledCheck = true) : s.Settled := by
  simp only [State.settledCheck, Bool.and_eq_true, List.all_eq_true, Bool.not_eq_true'] at h
  obtain ⟨⟨⟨ha, hb⟩, hw⟩, hl⟩ := h
  refine ⟨ha, ?_, fun hx => absurd hx (by simp [hw]), fun hx => absurd hx (by simp [hl])⟩
  intro b hbest
  rw [hbest] at hb
  cases hc : s.ann.current with
  | none => simp [hc] at hb
  | some c => exact ⟨c, rfl, by simpa [hc] using hb⟩

end Sys2Proof.Machine
end

