-- ==== Sys2Proof/Laws/Commands.lean ====
section
/-! SUPPORT. What taking a command and answering it leaves untouched, and what the Command Unit's shared execution answers. -/

namespace Sys2Proof.Machine

/-! ### Taking and answering touch only the ports -/

@[simp] theorem takeCommand_held (s : State) (p) : (s.takeCommand p).held = s.held := by cases p <;> rfl
@[simp] theorem takeCommand_time (s : State) (p) : (s.takeCommand p).time = s.time := by cases p <;> rfl
@[simp] theorem takeCommand_table (s : State) (p) : (s.takeCommand p).table = s.table := by cases p <;> rfl
@[simp] theorem takeCommand_burners (s : State) (p) : (s.takeCommand p).burners = s.burners := by cases p <;> rfl
@[simp] theorem takeCommand_app (s : State) (p) : (s.takeCommand p).app = s.app := by cases p <;> rfl
@[simp] theorem takeCommand_ann (s : State) (p) : (s.takeCommand p).ann = s.ann := by cases p <;> rfl
@[simp] theorem takeCommand_settings (s : State) (p) : (s.takeCommand p).settings = s.settings := by cases p <;> rfl
@[simp] theorem takeCommand_snap (s : State) (p) : (s.takeCommand p).snap = s.snap := by cases p <;> rfl
@[simp] theorem takeCommand_memory (s : State) (p) : (s.takeCommand p).memory = s.memory := by cases p <;> rfl
@[simp] theorem takeCommand_link (s : State) (p) : (s.takeCommand p).link = s.link := by cases p <;> rfl
@[simp] theorem takeCommand_todo (s : State) (p) : (s.takeCommand p).todo = s.todo := by cases p <;> rfl
@[simp] theorem takeCommand_pending (s : State) (p) : (s.takeCommand p).pending = s.pending := by cases p <;> rfl
@[simp] theorem takeCommand_lastServed (s : State) (p) : (s.takeCommand p).lastServed = p := by cases p <;> rfl
@[simp] theorem takeCommand_loading (s : State) (p) : (s.takeCommand p).loading = s.loading := by cases p <;> rfl
@[simp] theorem takeCommand_burner (s : State) (p st) : (s.takeCommand p).burner st = s.burner st := by cases p <;> rfl
@[simp] theorem takeCommand_commandSlice (s : State) (p) : (s.takeCommand p).commandSlice = s.commandSlice := by
  cases p <;> rfl
@[simp] theorem takeCommand_fullAccess (s : State) (p q st) : (s.takeCommand p).fullAccess q st = s.fullAccess q st := by
  cases p <;> rfl

@[simp] theorem reply_held (s : State) (p r) : (s.reply p r).held = s.held := by cases p <;> rfl
@[simp] theorem reply_time (s : State) (p r) : (s.reply p r).time = s.time := by cases p <;> rfl
@[simp] theorem reply_table (s : State) (p r) : (s.reply p r).table = s.table := by cases p <;> rfl
@[simp] theorem reply_burners (s : State) (p r) : (s.reply p r).burners = s.burners := by cases p <;> rfl
@[simp] theorem reply_app (s : State) (p r) : (s.reply p r).app = s.app := by cases p <;> rfl
@[simp] theorem reply_ann (s : State) (p r) : (s.reply p r).ann = s.ann := by cases p <;> rfl
@[simp] theorem reply_settings (s : State) (p r) : (s.reply p r).settings = s.settings := by cases p <;> rfl
@[simp] theorem reply_snap (s : State) (p r) : (s.reply p r).snap = s.snap := by cases p <;> rfl
@[simp] theorem reply_memory (s : State) (p r) : (s.reply p r).memory = s.memory := by cases p <;> rfl
@[simp] theorem reply_link (s : State) (p r) : (s.reply p r).link = s.link := by cases p <;> rfl
@[simp] theorem reply_todo (s : State) (p r) : (s.reply p r).todo = s.todo := by cases p <;> rfl
@[simp] theorem reply_pending (s : State) (p r) : (s.reply p r).pending = s.pending := by cases p <;> rfl
@[simp] theorem reply_lastServed (s : State) (p r) : (s.reply p r).lastServed = s.lastServed := by cases p <;> rfl
@[simp] theorem reply_loading (s : State) (p r) : (s.reply p r).loading = s.loading := by cases p <;> rfl
@[simp] theorem reply_burner (s : State) (p r st) : (s.reply p r).burner st = s.burner st := by cases p <;> rfl

/-! ### The mark of afterCommand -/

/-- A command that leaves the annunciator alone leaves its mark alone. -/
theorem afterCommand_same {s t : State} (h : t.ann = s.ann) : State.afterCommand s t = t := by
  unfold State.afterCommand State.withAnn
  rw [h]
  simp [← h]

/-- Only the mark of the annunciator is touched. -/
theorem afterCommand_eq (s t : State) :
    State.afterCommand s t = { t with ann := { t.ann with fresh := (State.afterCommand s t).ann.fresh } } := rfl

/-! ### Conclusions -/

/-- A refusal is the answer with its code and no data. -/
theorem conclude_error (s : State) (p : Port) (bytes : List Byte) (c : ResultCode) :
    (s.takeCommand p).conclude p (tagOf bytes) (.error c) = s.answered p bytes c [] := rfl

/-- An acceptance that leaves the annunciator alone replies to the state the work leads to. -/
theorem conclude_ok {s t : State} (p : Port) (tag : Byte) (data : List Byte) (h : t.ann = s.ann) :
    s.conclude p tag (.ok (t, data)) = t.reply p { tag := tag, code := .ok, data := data } := by
  simp only [State.conclude, afterCommand_same h]

/-! ### Execution -/

/-- The arbiter chooses nothing: nothing happens. -/
theorem execute_waits {s : State} (code body) (h : s.chosen = none) : execute code body s = .next s := by
  simp [execute, h]

/-- The arbiter's choice is a command of another code: this row does nothing. -/
theorem execute_other {s : State} {p : Port} {bytes : List Byte} (code body) (h : s.chosen = some (p, bytes))
    (hc : codeOf? bytes ≠ some code) : execute code body s = .next s := by
  simp [execute, h, hc]

/-- During the start-up load a command is answered NOT_READY (R140). -/
theorem execute_loading {s : State} {p : Port} {bytes : List Byte} {code : Nat} (body) (h : s.chosen = some (p, bytes))
    (hc : codeOf? bytes = some code) (hl : s.loading = true) :
    execute code body s = .next (s.answered p bytes .notReady []) := by
  simp [execute, h, hc, State.judge, hl, conclude_error]

/-- After it a command of another length is answered BAD_FRAME (R141). -/
theorem execute_length {s : State} {p : Port} {bytes : List Byte} {code : Nat} (body) (h : s.chosen = some (p, bytes))
    (hc : codeOf? bytes = some code) (hl : s.loading = false) (hn : lengthOk code bytes = false) :
    execute code body s = .next (s.answered p bytes .badFrame []) := by
  simp [execute, h, hc, State.judge, hl, hn, conclude_error]

/-- A command that passes steps 1 to 3 of R139 is concluded by its own work. -/
theorem execute_takes {s : State} {p : Port} {bytes : List Byte} {code : Nat} (body) (h : s.Takes p code bytes) :
    execute code body s
      = .next ((s.takeCommand p).conclude p (tagOf bytes) (body p bytes (s.takeCommand p))) := by
  simp [execute, h.chosen, h.coded, State.judge, h.loaded, h.length]

/-- Its work refuses it. -/
theorem execute_refuses {s : State} {p : Port} {bytes : List Byte} {code : Nat} {body} {c : ResultCode}
    (h : s.Takes p code bytes) (hb : body p bytes (s.takeCommand p) = .error c) :
    execute code body s = .next (s.answered p bytes c []) := by
  rw [execute_takes body h, hb, conclude_error]

/-- Its work accepts it without touching the annunciator. -/
theorem execute_accepts {s t : State} {p : Port} {bytes data : List Byte} {code : Nat} {body}
    (h : s.Takes p code bytes) (hb : body p bytes (s.takeCommand p) = .ok (t, data)) (ha : t.ann = s.ann) :
    execute code body s = .next (t.reply p { tag := tagOf bytes, code := .ok, data := data }) := by
  rw [execute_takes body h, hb, conclude_ok p _ _ (by simpa using ha)]

/-! ### Checks that a command reaching its record passes -/

/-- Steps 6 and 7 pass for a command that reaches its record. -/
theorem withRecord_reaches {s : State} {p : Port} {bytes : List Byte} {r : Record} (h : s.Reaches p bytes r)
    (work : Record → Verdict) : (s.takeCommand p).withRecord p (field bytes 2 1) work = work r := by
  have hs := h.slot
  have hv : portViews s.settings p r.station = true := by
    have ha := h.access
    cases p with
    | panel => rfl
    | remote =>
      simp only [State.fullAccess, beq_iff_eq] at ha
      simp [portViews, ha]
  unfold State.withRecord
  rw [if_neg (by omega)]
  simp [h.record, hv]

/-- Step 8 passes for a command that reaches its record, where no gas limit stands in its way. -/
theorem allowed_reaches {s : State} {p : Port} {bytes : List Byte} {r : Record} (h : s.Reaches p bytes r) (limit : Bool)
    (hg : p = .remote → isGas r.station = true → limit = false) (work : Verdict) :
    (s.takeCommand p).allowed p r.station limit work = work := by
  unfold State.allowed
  have ha := h.access
  cases p with
  | panel => simp [ha]
  | remote =>
    cases hgas : isGas r.station
    · simp [ha]
    · simp [ha, hg rfl hgas]

end Sys2Proof.Machine
end

