-- ==== Sys2Proof/Laws/Cycle.lean ====
section
/-! SUPPORT. What one crystal cycle does, when a share of a boundary's work is taken and what before it, what the clock's share
touches, what a tick of the annunciator leaves, and what the end of the load changes. -/

namespace Sys2Proof.Machine

/-! ### Crystal cycles (R82) -/

/-- While RESETn is low a crystal cycle changes nothing. -/
theorem crystalCycle_held {s : State} (h : s.held = true) (lines first later) : s.crystalCycle lines first later = s := by
  rw [State.crystalCycle, if_pos h]

/-- A crystal cycle that does not complete the slice is counted. -/
theorem crystalCycle_counts {s : State} (h : s.held = false) (hc : s.time.cycle + 1 < s.time.sliceLength) (lines first later) :
    s.crystalCycle lines first later = s.withTime { s.time with cycle := s.time.cycle + 1 } := by
  have hn : s.time.completing = false := by simp only [TimeBase.completing, decide_eq_false_iff_not]; omega
  rw [State.crystalCycle, if_neg (by simp [h]), if_neg (by simp [hn])]

/-- A crystal cycle that completes the slice makes the boundary. -/
theorem crystalCycle_completes {s : State} (h : s.held = false) (hc : s.time.sliceLength ≤ s.time.cycle + 1)
    (lines first later) : s.crystalCycle lines first later = s.takeBoundary lines first later := by
  have hy : s.time.completing = true := by simpa only [TimeBase.completing, decide_eq_true_eq] using hc
  rw [State.crystalCycle, if_neg (by simp [h]), if_pos hy]

/-- A slice has 3,276 or 3,277 crystal cycles. -/
theorem TimeBase.sliceLength_cases (t : TimeBase) : t.sliceLength = 3276 ∨ t.sliceLength = 3277 := by
  unfold TimeBase.sliceLength; split <;> simp

/-- After the cycles before the last of the slice, the next completes it. -/
theorem toLastCycle_completes {s : State} (h : s.held = false) :
    s.toLastCycle = s.withTime { s.time with cycle := s.time.sliceLength - 1 } ∧ s.toLastCycle.time.completing = true := by
  have e : s.toLastCycle = s.withTime { s.time with cycle := s.time.sliceLength - 1 } := by
    rw [State.toLastCycle, if_neg (by simp [h])]
  refine ⟨e, ?_⟩
  rw [e]
  show decide (s.time.sliceLength ≤ s.time.sliceLength - 1 + 1) = true
  simp only [decide_eq_true_eq]
  rcases s.time.sliceLength_cases with h | h <;> omega

/-- The step of an empty queue. -/
theorem step_idle {s : State} (h : s.pending = []) : step s = .next s.idleCycle := by
  unfold step; rw [h]

/-! ### Shares of a boundary's work (R84) -/

/-- A share that is not to be taken is not performed. -/
theorem takeOne_absent {s : State} {w : Work} (h : s.awaits w = false) : s.takeOne w = s := by
  rw [State.takeOne, if_neg (by simp [h])]

/-- A share that is to be taken is performed, and is then not to be taken again. -/
theorem takeOne_awaited {s : State} {w : Work} (h : s.awaits w = true) :
    s.takeOne w = (s.withTodo (s.todo.filter (fun v => v != w))).perform w := by
  rw [State.takeOne, if_pos h]

/-- Shares of which none is to be taken leave the state as it is. -/
theorem takeEach_absent {s : State} {ws : List Work} (h : ∀ w ∈ ws, s.awaits w = false) : s.takeEach ws = s := by
  induction ws with
  | nil => rfl
  | cons w ws ih =>
    show State.takeEach (s.takeOne w) ws = s
    rw [takeOne_absent (h w List.mem_cons_self)]
    exact ih (fun v hv => h v (List.mem_cons_of_mem _ hv))

/-- A share that is not to be taken brings nothing before it. -/
theorem take_absent {s : State} {w : Work} (h : s.awaits w = false) : s.take w = s := by
  unfold State.take; rw [if_neg (by simp [h])]

/-- A countdown once the period is closed, or with no period to close (R50). -/
theorem take_count {s : State} {k : Nat} (h : s.awaits (.count k) = true) (hc : s.awaits .closePeriod = false) :
    s.take (.count k) = s.takeOne (.count k) := by
  have hr : s.readyToCount k = s := by unfold State.readyToCount; split <;> simp [takeOne_absent hc]
  unfold State.take; rw [if_pos h]
  simp only [hr]

/-- Once the Record Engine's work is done and the period closed, nothing of it is left to take. -/
theorem takeEngine_done {s : State} (hc : s.awaits .closePeriod = false) (h : ∀ w ∈ engineWork, s.awaits w = false) :
    s.takeEngine = s := by
  rw [State.takeEngine, takeOne_absent hc, takeEach_absent h]

/-- A refresh before any of the counting is taken as the table stands (R90). -/
theorem take_refresh_first {s : State} (h : s.awaits .refresh = true) (ha : engineWork.all s.awaits = true) :
    s.take .refresh = (s.takeOne .syncTick).takeOne .refresh := by
  unfold State.take; rw [if_pos h]
  simp only [ha, if_true]

/-- A refresh after some of the counting waits for the rest of it (R90). -/
theorem take_refresh_after {s : State} (h : s.awaits .refresh = true) (ha : engineWork.all s.awaits = false) :
    s.take .refresh = (s.takeEngine.takeOne .syncTick).takeOne .refresh := by
  unfold State.take; rw [if_pos h]
  simp only [ha, Bool.false_eq_true, if_false]

/-! ### The clock's share (R68, R69, R85) -/

/-- Operations that change the table and the burners alone, one after another, change nothing else. -/
theorem foldl_onTable {f : State → Nat → State}
    (h : ∀ s k, ∃ t b, f s k = { s with table := t, burners := b }) (ks : List Nat) (s : State) :
    ks.foldl f s = { s with table := (ks.foldl f s).table, burners := (ks.foldl f s).burners } := by
  have g : ∃ t b, ks.foldl f s = { s with table := t, burners := b } := by
    induction ks generalizing s with
    | nil => exact ⟨s.table, s.burners, rfl⟩
    | cons k ks ih =>
      obtain ⟨t, b, e⟩ := h s k
      obtain ⟨t', b', e'⟩ := ih (f s k)
      exact ⟨t', b', by rw [List.foldl_cons, e', e]⟩
  obtain ⟨t, b, e⟩ := g
  rw [e]

/-- A placement changes the table and the burners alone. -/
theorem place_onTable (s : State) (k : Nat) : ∃ t b, s.place k = { s with table := t, burners := b } := by
  unfold State.place
  split
  · exact ⟨_, _, rfl⟩
  · split
    · unfold State.makeHead State.follow State.modify State.withTable State.withBurners
      dsimp only
      split
      · split <;> exact ⟨_, _, rfl⟩
      · exact ⟨_, _, rfl⟩
    · exact ⟨_, _, rfl⟩

/-- So do several placements. -/
theorem placeAll_eq (s : State) (ks : List Nat) :
    s.placeAll ks = { s with table := (s.placeAll ks).table, burners := (s.placeAll ks).burners } :=
  foldl_onTable place_onTable ks s

/-- The clock's share changes the reading, the table, the burners and the work left alone, and leaves no note. -/
theorem advanceClock_eq (s : State) :
    s.advanceClock = { s with
      time := { s.time with clock := s.time.nextReading }
      table := s.advanceClock.table, burners := s.advanceClock.burners, todo := s.advanceClock.todo } := by
  unfold State.advanceClock State.leaveStarted State.withTime State.withTodo
  dsimp only
  rw [placeAll_eq, foldl_onTable (f := fun s k => s.modify k Record.countDown) (fun s _ => ⟨_, s.burners, rfl⟩)]

/-! ### A tick of the annunciator (R126, R127, R129) -/

/-- A tick short of the timeout counts and advances; one at the timeout counts and mutes. -/
theorem Annunciator.tick_cases (u : SettingsUnit) (a : Annunciator) :
    (a.timesOut u = false ∧ a.tick u = { a.count.advance with ousted := none })
    ∨ (a.timesOut u = true ∧ a.tick u = { a.count.mute with ousted := none }) := by
  unfold Annunciator.tick
  cases a.timesOut u
  · exact .inl ⟨rfl, rfl⟩
  · exact .inr ⟨rfl, rfl⟩

/-- A context that does not sound neither counts nor times out. -/
theorem Annunciator.count_silent {a : Annunciator} (h : a.sounding = false) (u : SettingsUnit) :
    a.count = a ∧ a.timesOut u = false := by
  simp [Annunciator.count, Annunciator.timesOut, h]

/-! ### The end of the load (R176) -/

/-- The end of the load changes the settings and the record of the memory link alone. -/
theorem endLoad_eq (s : State) : s.endLoad = { s with settings := s.endLoad.settings, link := s.endLoad.link } := by
  unfold State.endLoad State.withLink; split <;> rfl

end Sys2Proof.Machine
end

