-- ==== Sys2Proof/Laws/Frames.lean ====
section
/-! SUPPORT. What each shared operation on records leaves untouched: the host side of the machine (State.SameHost). -/

namespace Sys2Proof.Machine

namespace State.SameHost

/-- Nothing changed. -/
theorem rfl' (s : State) : s.SameHost s := ⟨rfl, rfl, rfl, rfl, rfl, rfl, rfl, rfl, rfl, rfl⟩

/-- One change after another. -/
theorem trans {s t u : State} (h : s.SameHost t) (g : t.SameHost u) : s.SameHost u :=
  ⟨g.1.trans h.1, g.2.trans h.2, g.3.trans h.3, g.4.trans h.4, g.5.trans h.5, g.6.trans h.6, g.7.trans h.7,
   g.8.trans h.8, g.9.trans h.9, g.10.trans h.10⟩

/-- A choice of two changes. -/
theorem ite {s t u : State} {c : Prop} [Decidable c] (h : s.SameHost t) (g : s.SameHost u) :
    s.SameHost (if c then t else u) := by
  split
  · exact h
  · exact g

/-- A sequence of changes over a list. -/
theorem foldl {α : Type} (f : State → α → State) (h : ∀ (s : State) (a : α), s.SameHost (f s a)) (l : List α) (s : State) :
    s.SameHost (l.foldl f s) := by
  induction l generalizing s with
  | nil => exact rfl' s
  | cons a l ih => exact (h s a).trans (ih (f s a))

end State.SameHost

theorem withTable_sameHost (s : State) (t : Table) : s.SameHost (s.withTable t) :=
  ⟨rfl, rfl, rfl, rfl, rfl, rfl, rfl, rfl, rfl, rfl⟩
theorem withBurners_sameHost (s : State) (b) : s.SameHost (s.withBurners b) :=
  ⟨rfl, rfl, rfl, rfl, rfl, rfl, rfl, rfl, rfl, rfl⟩
theorem withApp_sameHost (s : State) (a) : s.SameHost (s.withApp a) :=
  ⟨rfl, rfl, rfl, rfl, rfl, rfl, rfl, rfl, rfl, rfl⟩
theorem withAnn_sameHost (s : State) (a) : s.SameHost (s.withAnn a) :=
  ⟨rfl, rfl, rfl, rfl, rfl, rfl, rfl, rfl, rfl, rfl⟩
theorem withTodo_sameHost (s : State) (w) : s.SameHost (s.withTodo w) :=
  ⟨rfl, rfl, rfl, rfl, rfl, rfl, rfl, rfl, rfl, rfl⟩
theorem modify_sameHost (s : State) (k f) : s.SameHost (s.modify k f) := withTable_sameHost s _
theorem raise_sameHost (s : State) (k a) : s.SameHost (s.raise k a) := modify_sameHost s k _
theorem settle_sameHost (s : State) : s.SameHost s.settle := withAnn_sameHost s _

theorem settleFrom_sameHost {s t : State} (h : s.SameHost t) (b : State) : s.SameHost (settleFrom b t) :=
  .ite h (h.trans (settle_sameHost t))

theorem dropElements_sameHost (s : State) (es k) : s.SameHost (s.dropElements es k) := withApp_sameHost s _

theorem dropLeaving_sameHost (s : State) (st b j) : s.SameHost (s.dropLeaving st b j) := dropElements_sameHost s _ _

theorem follow_sameHost (s : State) (st : Nat) : s.SameHost (s.follow st) := by
  unfold State.follow
  exact .ite (.ite ((withBurners_sameHost s _).trans (modify_sameHost _ _ _)) (withBurners_sameHost s _)) (.rfl' s)

theorem makeHead_sameHost (s : State) (st k) : s.SameHost (s.makeHead st k) :=
  ((withTable_sameHost s _).trans (modify_sameHost _ _ _)).trans (follow_sameHost _ _)

theorem place_sameHost (s : State) (k) : s.SameHost (s.place k) := by
  unfold State.place
  split
  · exact .rfl' s
  · exact .ite (makeHead_sameHost s _ _) ((withTable_sameHost s _).trans (modify_sameHost _ _ _))

theorem placeAll_sameHost (s : State) (ks) : s.SameHost (s.placeAll ks) := .foldl _ place_sameHost ks s

theorem promote_sameHost (s : State) (st) : s.SameHost (s.promote st) := by
  unfold State.promote
  split
  · exact (withTable_sameHost s _).trans (follow_sameHost _ _)
  · exact (withTable_sameHost s _).trans (makeHead_sameHost _ _ _)

theorem release_sameHost (s : State) (k) : s.SameHost (s.release k) :=
  (State.SameHost.foldl _ (fun s d => modify_sameHost s d _) _ s).trans (placeAll_sameHost _ _)

theorem endRecord_sameHost (s : State) (k r j) : s.SameHost (s.endRecord k r j) := by
  unfold State.endRecord
  refine (State.SameHost.trans ?_ (release_sameHost _ _)).trans (dropLeaving_sameHost _ _ _ _)
  exact .ite (((modify_sameHost s k _).trans (raise_sameHost _ k _)).trans (follow_sameHost _ _))
    (((modify_sameHost s k _).trans (raise_sameHost _ k _)).trans (promote_sameHost _ _))

theorem nextStage_sameHost (s : State) (k r j) : s.SameHost (s.nextStage k r j) := by
  unfold State.nextStage
  have h := modify_sameHost s k (fun r => r.beginStage (r.stage + 1))
  exact ((State.SameHost.ite (h.trans (raise_sameHost _ _ _)) h).trans (follow_sameHost _ _)).trans
    (dropLeaving_sameHost _ _ _ _)

theorem endStage_sameHost (s : State) (k j) : s.SameHost (s.endStage k j) := by
  unfold State.endStage
  split
  · exact .rfl' s
  · exact .ite (nextStage_sameHost s _ _ _) (endRecord_sameHost s _ _ _)

theorem detachFrom_sameHost (s : State) (k e) : s.SameHost (s.detachFrom k e) :=
  .foldl _ (fun s d => modify_sameHost s d _) _ s

theorem forget_sameHost (s : State) (k) : s.SameHost (s.forget k) := withTodo_sameHost s _

theorem retire_sameHost (s : State) (k p e) : s.SameHost (s.retire k p e) := by
  unfold State.retire
  split
  · exact .rfl' s
  · next r _ =>
    have h : s.SameHost (State.detachFrom (if s.table.head r.station == k then
        s.dropElements (stationElements r.station) s.commandSlice else s) k e) :=
      (State.SameHost.ite (dropElements_sameHost s _ _) (.rfl' s)).trans (detachFrom_sameHost _ k e)
    have g := fun x y => (((h.trans (withTable_sameHost _ x)).trans (withTable_sameHost _ y)).trans (forget_sameHost _ k))
    exact .ite (.ite ((g _ _).trans (promote_sameHost _ _))
      (((g _ _).trans (withTable_sameHost _ _)).trans (follow_sameHost _ _))) (g _ _)

theorem retireAll_sameHost (s : State) (ks p) : s.SameHost (s.retireAll ks p) :=
  .foldl _ (fun s k => retire_sameHost s k p ks) ks s

theorem judgeStation_sameHost (s : State) (st) : s.SameHost (s.judgeStation st) := by
  unfold State.judgeStation
  split
  · exact .rfl' s
  · exact .ite (settleFrom_sameHost (((modify_sameHost s _ _).trans (raise_sameHost _ _ _)).trans (follow_sameHost _ _)) s)
      (modify_sameHost s _ _)

theorem leaveStarted_sameHost (s t : State) : t.SameHost (s.leaveStarted t) := withTodo_sameHost t _

theorem countRecord_sameHost (s : State) (k) : s.SameHost (s.countRecord k) := by
  unfold State.countRecord
  split
  · exact .rfl' s
  · next r _ =>
    refine .ite (settleFrom_sameHost ?_ s) (.rfl' s)
    have h1 := withTable_sameHost s (s.table.put k (some (s.counted r).1))
    have h2 : s.SameHost _ := State.SameHost.ite (c := ((s.counted r).2 && (s.counted r).1.remaining == 0) = true)
      ((h1.trans (endStage_sameHost _ k s.boundarySlice)).trans
        (leaveStarted_sameHost (s.withTable (s.table.put k (some (s.counted r).1))) _)) h1
    exact .ite (h2.trans (modify_sameHost _ _ _)) h2

theorem openPeriod_sameHost (s : State) : s.SameHost s.openPeriod :=
  ((modify_sameHost s _ _).trans (modify_sameHost _ _ _)).trans (withApp_sameHost _ _)

theorem alertTick_sameHost (s : State) : s.SameHost s.alertTick :=
  .ite ((withAnn_sameHost s _).trans (settle_sameHost _)) (withAnn_sameHost s _)

end Sys2Proof.Machine
end

