-- ==== Sys2Proof/Laws/Memory.lean ====
section
/-! SUPPORT. The settings memory: every write keeps the canonical form, a read after a write gives the byte written, and a write
leaves every other address alone. -/

namespace Sys2Proof.Machine

/-- An address below every listed one reads as erased. -/
theorem Memory.read_below {m : List Host.Cell} {a : Nat} (h : ∀ c ∈ m, a < c.1) : Memory.read m a = Config.erased := by
  induction m with
  | nil => rfl
  | cons c m ih =>
    obtain ⟨b, v⟩ := c
    have hb : a < b := h (b, v) List.mem_cons_self
    rw [Memory.read, if_neg (by omega)]
    exact ih fun c hc => h c (List.mem_cons_of_mem _ hc)

/-- The addresses after a write are the written one and those listed before. -/
theorem Memory.write_addr {m : List Host.Cell} {a : Nat} {v : Byte} {c : Host.Cell} (h : c ∈ Memory.write m a v) :
    c = (a, v) ∨ c ∈ m := by
  induction m with
  | nil =>
    simp only [Memory.write] at h
    split at h
    · simp at h
    · exact .inl (List.mem_singleton.mp h)
  | cons d m ih =>
    obtain ⟨b, w⟩ := d
    simp only [Memory.write] at h
    split at h
    · split at h
      · exact .inr h
      · exact (List.mem_cons.mp h).imp id id
    · split at h
      · split at h
        · exact .inr (List.mem_cons_of_mem _ h)
        · exact (List.mem_cons.mp h).imp id (List.mem_cons_of_mem _)
      · rcases List.mem_cons.mp h with h | h
        · exact .inr (h ▸ List.mem_cons_self)
        · exact (ih h).imp id (List.mem_cons_of_mem _)

/-- A write of an erased byte lists nothing. -/
theorem Memory.write_not_erased {m : List Host.Cell} {a : Nat} {v : Byte} (h : ∀ c ∈ m, c.2 ≠ Config.erased) :
    ∀ c ∈ Memory.write m a v, c.2 ≠ Config.erased := by
  induction m with
  | nil =>
    intro c hc
    simp only [Memory.write] at hc
    split at hc
    · simp at hc
    · rw [List.mem_singleton.mp hc]; assumption
  | cons d m ih =>
    obtain ⟨b, w⟩ := d
    have hm := fun c hc => h c (List.mem_cons_of_mem _ hc)
    intro c hc
    simp only [Memory.write] at hc
    split at hc
    · split at hc
      · exact h c hc
      · rcases List.mem_cons.mp hc with rfl | hc
        · assumption
        · exact h c hc
    · split at hc
      · split at hc
        · exact hm c hc
        · rcases List.mem_cons.mp hc with rfl | hc
          · assumption
          · exact hm c hc
      · rcases List.mem_cons.mp hc with rfl | hc
        · exact h _ List.mem_cons_self
        · exact ih hm c hc

/-- One write keeps the canonical form. -/
theorem Memory.write_wf {m : List Host.Cell} (a : Nat) (v : Byte) (h : Memory.wf m) : Memory.wf (Memory.write m a v) := by
  refine ⟨?_, Memory.write_not_erased h.2⟩
  have hs := h.1
  clear h
  induction m with
  | nil =>
    simp only [Memory.write]
    split <;> simp
  | cons d m ih =>
    obtain ⟨b, w⟩ := d
    rw [List.pairwise_cons] at hs
    simp only [Memory.write]
    split
    · split
      · exact List.pairwise_cons.mpr hs
      · refine List.pairwise_cons.mpr ⟨?_, List.pairwise_cons.mpr hs⟩
        intro c hc
        rcases List.mem_cons.mp hc with rfl | hc
        · assumption
        · have := hs.1 c hc; simp only at this ⊢; omega
    · split
      · split
        · exact hs.2
        · refine List.pairwise_cons.mpr ⟨fun c hc => ?_, hs.2⟩
          have := hs.1 c hc
          simp only at this ⊢; omega
      · refine List.pairwise_cons.mpr ⟨fun c hc => ?_, ih hs.2⟩
        rcases Memory.write_addr hc with rfl | hc
        · simp only; omega
        · exact hs.1 c hc

/-- Writing bytes keeps the canonical form. -/
theorem Memory.writeBytes_wf {m : List Host.Cell} (vs : List Byte) (a : Nat) (h : Memory.wf m) :
    Memory.wf (Memory.writeBytes m a vs) := by
  induction vs generalizing m a with
  | nil => exact h
  | cons v vs ih => exact ih (a + 1) (Memory.write_wf a v h)

/-- A read of the address written gives the byte written. -/
theorem Memory.read_write_same {m : List Host.Cell} (a : Nat) (v : Byte) (h : Memory.wf m) :
    Memory.read (Memory.write m a v) a = v := by
  have hs := h.1
  clear h
  induction m with
  | nil =>
    simp only [Memory.write]
    split
    · next hv => rw [hv]; rfl
    · simp [Memory.read]
  | cons d m ih =>
    obtain ⟨b, w⟩ := d
    have hp := List.pairwise_cons.mp hs
    simp only [Memory.write]
    split
    · next hlt =>
      split
      · next hv =>
        rw [hv]
        refine Memory.read_below fun c hc => ?_
        rcases List.mem_cons.mp hc with rfl | hc
        · exact hlt
        · have := hp.1 c hc; simp only at this; omega
      · simp [Memory.read]
    · split
      · next hge hab =>
        split
        · next hv =>
          rw [hv]
          exact Memory.read_below fun c hc => by rw [hab]; exact hp.1 c hc
        · simp [Memory.read]
      · next hge hne => rw [Memory.read, if_neg hne]; exact ih hp.2

/-- A write leaves every other address as it was. -/
theorem Memory.read_write_other {m : List Host.Cell} (a b : Nat) (v : Byte) (h : b ≠ a) :
    Memory.read (Memory.write m a v) b = Memory.read m b := by
  induction m with
  | nil =>
    simp only [Memory.write]
    split
    · rfl
    · simp [Memory.read, h]
  | cons d m ih =>
    obtain ⟨c, w⟩ := d
    simp only [Memory.write]
    split
    · split
      · rfl
      · rw [Memory.read, if_neg h]
    · split
      · next hge hac =>
        split
        · simp [Memory.read, ← hac, h]
        · simp [Memory.read, ← hac, h]
      · simp only [Memory.read, ih]

/-- Writing bytes leaves every address outside them as it was. -/
theorem Memory.read_writeBytes_other {m : List Host.Cell} (vs : List Byte) (a b : Nat)
    (h : b < a ∨ a + vs.length ≤ b) : Memory.read (Memory.writeBytes m a vs) b = Memory.read m b := by
  induction vs generalizing m a with
  | nil => rfl
  | cons v vs ih =>
    simp only [List.length_cons] at h
    rw [Memory.writeBytes, ih (a + 1) (by omega), Memory.read_write_other a b v (by omega)]

/-- A read within the bytes written gives the byte written there. -/
theorem Memory.read_writeBytes_same {m : List Host.Cell} (vs : List Byte) (a i : Nat) (h : Memory.wf m)
    (hi : i < vs.length) : Memory.read (Memory.writeBytes m a vs) (a + i) = vs[i] := by
  induction vs generalizing m a i with
  | nil => simp at hi
  | cons v vs ih =>
    rw [Memory.writeBytes]
    cases i with
    | zero =>
      rw [Memory.read_writeBytes_other vs (a + 1) (a + 0) (by omega)]
      exact Memory.read_write_same a v h
    | succ j =>
      have := ih (m := Memory.write m a v) (a + 1) j (Memory.write_wf a v h) (by simpa using hi)
      simpa [Nat.add_assoc, Nat.add_comm, Nat.add_left_comm] using this

end Sys2Proof.Machine
end

