-- ==== Sys2Proof/WellFormed.lean ====
section
/-! DEFINITION. Well-formed commands: the operands that name a slot or a station name one that exists (section 3.3). -/

namespace Sys2Proof

/-- A slot number is 1..48 (R17). -/
def slotOk (k : Nat) : Bool := 1 ≤ k && k ≤ Config.slotCount

/-- A gas station index is 0..5 (section 1.1). -/
def gasOk (st : Nat) : Bool := st < Config.OV

/-- The work named is a share of a boundary's work, and exists: its slot is 1..48, its station 0..5. -/
def Work.wellFormed : Work → Bool
  | .count k => slotOk k
  | .released _ => false
  | .judge st => gasOk st
  | .relays | .closePeriod | .openPeriod | .alertTick | .syncTick | .clock | .refresh | .loadEnd => true

/-- The operands of a command are ones the outside can supply. -/
def Instr.wellFormed : Instr → Bool
  | .sliceBoundary _ first later => first.all Work.wellFormed && later.all Work.wellFormed
  | .delayDue k | .offsetDue k | .stageEnd k | .recordEnd k => slotOk k
  | .flameLoss st => gasOk st
  | .powerOn _ _ _ | .resetnLow _ | .resetnRelease _ _ | .loadEntry | .loadEnd | .secondBoundary | .periodBoundary
  | .syncFall | .soundTimeout | .create | .retire | .pause | .resume | .adjust | .setLevel | .skip | .start | .query
  | .list | .nextAlert | .ack | .silence | .setClock | .window | .setItem | .getItem | .storeSettings
  | .settingsStatus | .grant | .softReset | .stationReset | .badCommand | .storeWriteComplete | .storeWriteTimeout _
  | .pcsFall | .frameTypeByte _ | .commandFrameEnd _ | .fetchLengthByte | .windowEntry | .readWindowEnd
  | .portStatusByte _ | .i2cAddress _ _ | .remoteWriteFirstByte _ | .remoteWriteOverlong | .remoteWriteEnd _
  | .pcsRise | .readTransactionEnd | .commandWithoutCode => true

end Sys2Proof
end

