-- ==== Sys2Proof/Laws/PerInstr.lean ====
section
/-! SUPPORT. The family NamedSlots: a well-formed command names only slots of the table. -/

namespace Sys2Proof.Laws

/-- Slots that a share of work names. -/
def workSlots : Work → List Nat
  | .count k | .released k => [k]
  | .judge _ | .relays | .closePeriod | .openPeriod | .alertTick | .syncTick | .clock | .refresh | .loadEnd => []

/-- Slots that a command names in its operands. -/
def namedSlots : Instr → List Nat
  | .sliceBoundary _ first later => (first ++ later).flatMap workSlots
  | .delayDue k | .offsetDue k | .stageEnd k | .recordEnd k => [k]
  | .powerOn _ _ _ | .resetnLow _ | .resetnRelease _ _ | .loadEntry | .loadEnd | .secondBoundary
  | .periodBoundary | .syncFall | .flameLoss _ | .soundTimeout | .create | .retire | .pause | .resume
  | .adjust | .setLevel | .skip | .start | .query | .list | .nextAlert | .ack | .silence | .setClock
  | .window | .setItem | .getItem | .storeSettings | .settingsStatus | .grant | .softReset | .stationReset
  | .badCommand | .storeWriteComplete | .storeWriteTimeout _ | .pcsFall | .frameTypeByte _
  | .commandFrameEnd _ | .fetchLengthByte | .windowEntry | .readWindowEnd | .portStatusByte _
  | .i2cAddress _ _ | .remoteWriteFirstByte _ | .remoteWriteOverlong | .remoteWriteEnd _ | .pcsRise
  | .readTransactionEnd | .commandWithoutCode => []

/-- A slot number that is well-formed is one of the table's. -/
theorem mem_allSlots_of_slotOk {k : Nat} (h : slotOk k = true) : k ∈ Machine.allSlots := by
  simp only [slotOk, Bool.and_eq_true, decide_eq_true_eq] at h
  simp only [Machine.allSlots, List.mem_map, List.mem_range]
  exact ⟨k - 1, by omega, by omega⟩

/-- Well-formed work names only slots of the table. -/
theorem workSlots_of_wellFormed {w : Work} (h : w.wellFormed = true) : ∀ k ∈ workSlots w, k ∈ Machine.allSlots := by
  intro k hk
  cases w <;> simp [workSlots] at hk <;> subst hk
  · exact mem_allSlots_of_slotOk h
  · exact absurd h Bool.false_ne_true

namespace NamedSlots

/-- A well-formed command names only slots of the table. -/
def Statement (i : Instr) : Prop := i.wellFormed = true → ∀ k ∈ namedSlots i, k ∈ Machine.allSlots

theorem powerOn (radr status landed) : Statement (.powerOn radr status landed) := fun _ _ hk => absurd hk List.not_mem_nil
theorem resetnLow (landed) : Statement (.resetnLow landed) := fun _ _ hk => absurd hk List.not_mem_nil
theorem resetnRelease (radr status) : Statement (.resetnRelease radr status) := fun _ _ hk => absurd hk List.not_mem_nil
theorem loadEntry : Statement .loadEntry := fun _ _ hk => absurd hk List.not_mem_nil
theorem loadEnd : Statement .loadEnd := fun _ _ hk => absurd hk List.not_mem_nil
theorem sliceBoundary (lines first later) : Statement (.sliceBoundary lines first later) := by
  intro h k hk
  simp only [Instr.wellFormed, Bool.and_eq_true, List.all_eq_true] at h
  simp only [namedSlots, List.mem_flatMap, List.mem_append] at hk
  obtain ⟨w, hw | hw, hk⟩ := hk
  · exact workSlots_of_wellFormed (h.1 w hw) k hk
  · exact workSlots_of_wellFormed (h.2 w hw) k hk
theorem secondBoundary : Statement .secondBoundary := fun _ _ hk => absurd hk List.not_mem_nil
theorem periodBoundary : Statement .periodBoundary := fun _ _ hk => absurd hk List.not_mem_nil
theorem syncFall : Statement .syncFall := fun _ _ hk => absurd hk List.not_mem_nil
theorem delayDue (slot) : Statement (.delayDue slot) := by
  intro h k hk
  rw [List.mem_singleton.mp hk]
  exact mem_allSlots_of_slotOk h
theorem offsetDue (slot) : Statement (.offsetDue slot) := by
  intro h k hk
  rw [List.mem_singleton.mp hk]
  exact mem_allSlots_of_slotOk h
theorem stageEnd (slot) : Statement (.stageEnd slot) := by
  intro h k hk
  rw [List.mem_singleton.mp hk]
  exact mem_allSlots_of_slotOk h
theorem recordEnd (slot) : Statement (.recordEnd slot) := by
  intro h k hk
  rw [List.mem_singleton.mp hk]
  exact mem_allSlots_of_slotOk h
theorem flameLoss (station) : Statement (.flameLoss station) := fun _ _ hk => absurd hk List.not_mem_nil
theorem soundTimeout : Statement .soundTimeout := fun _ _ hk => absurd hk List.not_mem_nil
theorem create : Statement .create := fun _ _ hk => absurd hk List.not_mem_nil
theorem retire : Statement .retire := fun _ _ hk => absurd hk List.not_mem_nil
theorem pause : Statement .pause := fun _ _ hk => absurd hk List.not_mem_nil
theorem resume : Statement .resume := fun _ _ hk => absurd hk List.not_mem_nil
theorem adjust : Statement .adjust := fun _ _ hk => absurd hk List.not_mem_nil
theorem setLevel : Statement .setLevel := fun _ _ hk => absurd hk List.not_mem_nil
theorem skip : Statement .skip := fun _ _ hk => absurd hk List.not_mem_nil
theorem start : Statement .start := fun _ _ hk => absurd hk List.not_mem_nil
theorem query : Statement .query := fun _ _ hk => absurd hk List.not_mem_nil
theorem list : Statement .list := fun _ _ hk => absurd hk List.not_mem_nil
theorem nextAlert : Statement .nextAlert := fun _ _ hk => absurd hk List.not_mem_nil
theorem ack : Statement .ack := fun _ _ hk => absurd hk List.not_mem_nil
theorem silence : Statement .silence := fun _ _ hk => absurd hk List.not_mem_nil
theorem setClock : Statement .setClock := fun _ _ hk => absurd hk List.not_mem_nil
theorem window : Statement .window := fun _ _ hk => absurd hk List.not_mem_nil
theorem setItem : Statement .setItem := fun _ _ hk => absurd hk List.not_mem_nil
theorem getItem : Statement .getItem := fun _ _ hk => absurd hk List.not_mem_nil
theorem storeSettings : Statement .storeSettings := fun _ _ hk => absurd hk List.not_mem_nil
theorem settingsStatus : Statement .settingsStatus := fun _ _ hk => absurd hk List.not_mem_nil
theorem grant : Statement .grant := fun _ _ hk => absurd hk List.not_mem_nil
theorem softReset : Statement .softReset := fun _ _ hk => absurd hk List.not_mem_nil
theorem stationReset : Statement .stationReset := fun _ _ hk => absurd hk List.not_mem_nil
theorem badCommand : Statement .badCommand := fun _ _ hk => absurd hk List.not_mem_nil
theorem storeWriteComplete : Statement .storeWriteComplete := fun _ _ hk => absurd hk List.not_mem_nil
theorem storeWriteTimeout (left) : Statement (.storeWriteTimeout left) := fun _ _ hk => absurd hk List.not_mem_nil
theorem pcsFall : Statement .pcsFall := fun _ _ hk => absurd hk List.not_mem_nil
theorem frameTypeByte (type) : Statement (.frameTypeByte type) := fun _ _ hk => absurd hk List.not_mem_nil
theorem commandFrameEnd (bytes) : Statement (.commandFrameEnd bytes) := fun _ _ hk => absurd hk List.not_mem_nil
theorem fetchLengthByte : Statement .fetchLengthByte := fun _ _ hk => absurd hk List.not_mem_nil
theorem windowEntry : Statement .windowEntry := fun _ _ hk => absurd hk List.not_mem_nil
theorem readWindowEnd : Statement .readWindowEnd := fun _ _ hk => absurd hk List.not_mem_nil
theorem portStatusByte (clockedOut) : Statement (.portStatusByte clockedOut) := fun _ _ hk => absurd hk List.not_mem_nil
theorem i2cAddress (address read) : Statement (.i2cAddress address read) := fun _ _ hk => absurd hk List.not_mem_nil
theorem remoteWriteFirstByte (byte) : Statement (.remoteWriteFirstByte byte) := fun _ _ hk => absurd hk List.not_mem_nil
theorem remoteWriteOverlong : Statement .remoteWriteOverlong := fun _ _ hk => absurd hk List.not_mem_nil
theorem remoteWriteEnd (rest) : Statement (.remoteWriteEnd rest) := fun _ _ hk => absurd hk List.not_mem_nil
theorem pcsRise : Statement .pcsRise := fun _ _ hk => absurd hk List.not_mem_nil
theorem readTransactionEnd : Statement .readTransactionEnd := fun _ _ hk => absurd hk List.not_mem_nil
theorem commandWithoutCode : Statement .commandWithoutCode := fun _ _ hk => absurd hk List.not_mem_nil

end NamedSlots

end Sys2Proof.Laws
end

