-- ==== Sys2Proof/Tests/Slice0.lean ====
section
/-! SUPPORT. The model's own tests: what well-formedness refuses, a few commands on small states, and for every statement with
hypotheses a state and operands that meet them all. -/

namespace Sys2Proof.Tests

open Sys2Proof.Machine

set_option Elab.async false

/-! ### Well-formed commands -/

theorem test_refuses_slot_zero : (Instr.delayDue 0).wellFormed = false := by decide
theorem test_refuses_slot_forty_nine : (Instr.offsetDue 49).wellFormed = false := by decide
theorem test_refuses_stage_end_slot : (Instr.stageEnd 49).wellFormed = false := by decide
theorem test_refuses_record_end_slot : (Instr.recordEnd 0).wellFormed = false := by decide
theorem test_refuses_electric_flame : (Instr.flameLoss 6).wellFormed = false := by decide
theorem test_refuses_named_slot :
    (Instr.sliceBoundary ⟨false, false, false, 0#6⟩ [.relays, .count 49] []).wellFormed = false := by decide
theorem test_refuses_named_note :
    (Instr.sliceBoundary ⟨false, false, false, 0#6⟩ [] [.released 1]).wellFormed = false := by decide
theorem test_refuses_named_station :
    (Instr.sliceBoundary ⟨false, false, false, 0#6⟩ [] [.judge 6]).wellFormed = false := by decide
theorem test_accepts_edges :
    (Instr.delayDue 1).wellFormed = true ∧ (Instr.delayDue 48).wellFormed = true ∧ (Instr.flameLoss 5).wellFormed = true := by
  decide

/-! ### Small states -/

/-- The part with its start-up load ended on the defaults. -/
def idle : State := { State.reset with settings := { State.reset.settings with loader := .loaded } }

/-- A stage of the given level and deciseconds, WALL, with its second choice of end action. -/
def stage (level ds : Nat) (second : Bool) : Stage :=
  { level := level, full := false, setpoint := none, duration := ds, basis := .wall, second := second }

/-- A start condition of a kind with nothing set. -/
def startOf (kind : StartKind) : StartCondition := { kind := kind, count := 0, minute := 0, linked := 0, offset := 0 }

/-- A PANEL record of a station and state, of two stages. -/
def recordOf (station : Nat) (state : RecordState) : Record :=
  { station := station, origin := .panel, state := state, start := startOf .manual, detached := false
    stages := [stage 5 600 true, stage 3 300 false], stage := 0, remaining := 0, acc := 0, starve := 0
    starvedRaised := false, reminder := none, reminderDone := false, standing := .part 0, grace := 0, absent := 0
    flameOut := false, keep := false, alerts := 0#6 }

/-- A RUNNING record in its first stage with 1 ds left and four absent samples. -/
def cooking (station : Nat) : Record := { recordOf station .running with stage := 1, remaining := 1, absent := 4 }

/-- An ARMED record that waits on a slot. -/
def waiting (station linked offset : Nat) : Record :=
  { recordOf station .armed with start := { startOf .after with linked := linked, offset := offset } }

/-- A table with records on many stations: slot 1 RUNNING on H1 with slot 2 queued behind it; 3, 4 and 13 wait on it; 5 RUNNING on
the oven; 6 DELAY and 7 an offset, both about to be due; 8 AT 00:10; 9 ENDED with RECORD_END pending; 10 ENDED with the keep mark and
a flame-out; 11 PAUSED on the grill; 12 HELD; 14 REMOTE-origin ARMED on the oven. -/
def kitchenTable : Table :=
  let put := fun (t : Table) (x : Nat × Record) => t.put x.1 (some x.2)
  let t := [(1, cooking 0), (2, recordOf 0 .queued), (3, waiting 1 1 0), (4, waiting 1 1 5), (5, cooking 6),
    (6, { recordOf 2 .armed with start := { startOf .delay with count := 1 } }),
    (7, { recordOf 3 .armed with start := { startOf .after with count := 1, offset := 9 } }),
    (8, { recordOf 3 .armed with start := { startOf .clockTime with minute := 10 } }),
    (9, { recordOf 5 .ended with stage := 2, alerts := 2#6 }),
    (10, { recordOf 5 .ended with stage := 2, keep := true, flameOut := true }),
    (11, { recordOf 7 .paused with stage := 1, remaining := 7 }),
    (12, { recordOf 4 .held with stage := 1, remaining := 7 }),
    (13, waiting 7 1 0), (14, { recordOf 6 .armed with origin := .remote })].foldl put .empty
  { t with heads := [1, 0, 0, 0, 12, 10, 5, 11], queues := [[2], [], [], [], [], [], [], []] }

/-- The annunciator on the one pending alert of kitchenTable. -/
def kitchenAlert : Annunciator :=
  { Annunciator.quiet with current := some { slot := 9, kind := .recordEnd, priority := 10, muted := false } }

/-- The part with kitchenTable. -/
def kitchen : State :=
  { idle with table := kitchenTable, burners := ⟨5, 1⟩ :: List.replicate 5 ⟨0, 0⟩, ann := kitchenAlert }

/-- One RUNNING record, on slot 1 of H1 and in its last stage, with another queued behind it. -/
def pairState (second : Bool) : State :=
  { idle with
    table := { ((Table.empty.put 1 (some { cooking 0 with stage := 2, stages := [stage 5 600 true, stage 3 300 second] })).put 2
        (some (recordOf 0 .queued))) with heads := [1, 0, 0, 0, 0, 0, 0, 0], queues := [[2], [], [], [], [], [], [], []] }
    burners := ⟨3, 1⟩ :: List.replicate 5 ⟨0, 0⟩ }

/-- A command waits on the panel port. -/
def asked (s : State) (bytes : List Byte) : State := { s with panel := { s.panel with commands := [bytes] } }

/-- A command waits on the remote port. -/
def askedFrom (s : State) (bytes : List Byte) : State := { s with remote := { s.remote with commands := [bytes] } }

theorem test_kitchen_consistent : kitchen.table.Consistent := .of_check (by decide +kernel)
theorem test_kitchen_levels : kitchen.LevelsFollow := .of_check (by decide +kernel)
theorem test_kitchen_loads : kitchen.LoadsFit := .of_check (by decide +kernel)
theorem test_kitchen_settings : kitchen.settings.InRange := .of_check (by decide +kernel)
theorem test_kitchen_settled : kitchen.Settled := .of_check (by decide +kernel)
theorem test_pair_consistent (b : Bool) : (pairState b).table.Consistent := .of_check (by cases b <;> decide +kernel)
theorem test_pair_levels (b : Bool) : (pairState b).LevelsFollow := .of_check (by cases b <;> decide +kernel)

/-- The first three steps of R139 on a concrete state. -/
theorem taken {s : State} {p : Port} {code : Nat} {bytes : List Byte}
    (h : (decide (s.chosen = some (p, bytes)) && decide (codeOf? bytes = some code) && !s.loading && lengthOk code bytes) = true) :
    s.Takes p code bytes := by
  simp only [Bool.and_eq_true, decide_eq_true_eq, Bool.not_eq_true'] at h
  exact ⟨h.1.1.1, h.1.1.2, h.1.2, h.2⟩

/-- Steps 6 to 8 of R139 on a concrete state. -/
theorem reached {s : State} {p : Port} {bytes : List Byte} {r : Record}
    (h : (decide (1 ≤ field bytes 2 1) && decide (field bytes 2 1 ≤ 48) && decide (s.table.rec? (field bytes 2 1) = some r)
      && s.fullAccess p r.station) = true) : s.Reaches p bytes r := by
  simp only [Bool.and_eq_true, decide_eq_true_eq] at h
  exact ⟨⟨h.1.1.1, h.1.1.2⟩, h.1.2, h.2⟩

/-! ### Hypotheses met: the step, power, load -/

theorem test_meets_StepRunsTheFrontCommand : { idle with pending := [.query] }.pending = .query :: [] := rfl

/-- The part right after a power-on with a blank memory that is ready at once. -/
def poweredOn : State := idle.startPart 1#2 [0#8] []

theorem getD_replicate {α : Type} (n i : Nat) (x : α) : (List.replicate n x).getD i x = x := by
  simp only [List.getD_eq_getElem?_getD, List.getElem?_replicate]
  split <;> rfl

theorem test_powered_on : poweredOn.PoweredUp 1#2 where
  held := rfl
  cycle := rfl
  slice := rfl
  second := rfl
  clock := ⟨rfl, rfl⟩
  lines := ⟨rfl, rfl, rfl⟩
  slots k := by
    show Table.empty.rec? k = none
    unfold Table.rec?
    split
    · rfl
    · exact getD_replicate 48 _ none
  stations st := ⟨getD_replicate 8 st 0, getD_replicate 8 st []⟩
  burners st := congrArg Burner.level (getD_replicate 6 st (⟨0, 0⟩ : Burner))
  plan e := by
    match e with
    | 0 | 1 | 2 | 3 | 4 => decide
    | _ + 5 => exact ⟨rfl, rfl, rfl, rfl, rfl, rfl⟩
  in_force := by decide
  budgets := by decide
  figures := by decide
  quiet := by decide
  settings i it h := by
    show (Config.items.map Config.Item.dflt)[i]? = _
    rw [List.getElem?_map, h]; rfl
  load := by decide
  window := by decide
  panel := by decide
  remote := by decide
  address := by decide
  served := rfl
  entries := by decide +kernel

theorem test_meets_IdleStepCountsACycle :
    idle.pending = [] ∧ { idle with held := true }.held = true ∧ idle.held = false ∧ idle.time.cycle + 1 < idle.time.sliceLength
    ∧ 3275 + 1 < { idle.time with cycle := 3275 }.sliceLength ∧ 3276 + 1 = { idle.time with cycle := 3276 }.sliceLength
    ∧ 3275 + 1 = { idle.time with slice := 4, cycle := 3275 }.sliceLength ∧ idle.time.slice < 10
    ∧ idle.time.cycle < idle.time.sliceLength ∧ (∃ t, step idle = .next t) ∧ poweredOn.PoweredUp 1#2 ∧ poweredOn.pending = [] :=
  ⟨rfl, rfl, rfl, by decide, by decide, by decide, by decide, by decide, by decide, ⟨_, rfl⟩, test_powered_on, rfl⟩
theorem test_meets_PowerOnAndReleaseStartThePart :
    idle.settings.storing = false ∧ { idle with held := true }.held = true := by decide

/-- The settings memory after a store of the defaults. -/
def storedMemory : List Host.Cell := Memory.writeBytes [] 0 (imageOf idle.settings.values)

theorem test_meets_HeaderDecidesTheLoad :
    ((idle.startPart 0#2 [0#8] []).memory = [] ∧ Memory.read [] 0 ≠ 0xA6#8)
    ∧ Memory.read storedMemory 0 = 0xA6#8 ∧ Memory.read storedMemory 1 = 0x01#8
    ∧ (0x01#8 : Byte) ≠ 0xFF#8 ∧ (0x01#8 : Byte).getLsbD 0 = true ∧ (0#8 : Byte).getLsbD 0 = false := by decide +kernel

/-- A store of the defaults has just begun. -/
def storing (n : Nat) : State :=
  { idle with settings := { idle.settings with store := .inProgress n, image := imageOf idle.settings.values } }

theorem test_meets_ResetnLowHoldsThePart :
    idle.held = false ∧ idle.settings.storing = false ∧ { idle with held := true }.held = true
    ∧ (storing 0).settings.store = .inProgress 0 ∧ (storing 6).settings.store = .inProgress 6 ∧ (storing 6).held = false
    ∧ Memory.wf (storing 0).memory ∧ (0 : Nat) ≠ 6 ∧ (0#8 : Byte).getLsbD 0 = false := by decide +kernel
/-- The start-up load about to read one entry of the given id and value. -/
def loadingEntry (id v : Nat) : State :=
  { State.reset with
    memory := Memory.writeBytes [] 4 (leBytes 2 id ++ leBytes 4 v)
    settings := { State.reset.settings with entryCount := 1 } }

theorem test_meets_LoadEntryIsCounted :
    (loadingEntry 1 0).held = false ∧ (loadingEntry 1 0).loading = true
    ∧ (loadingEntry 1 0).settings.entriesRead < (loadingEntry 1 0).settings.entryCount
    ∧ leValue (Memory.readBytes (loadingEntry 1 0).memory 4 2) = 1 ∧ itemAt 1 = none
    ∧ leValue (Memory.readBytes (loadingEntry 0x10 3610).memory 6 4) = 3610 ∧ itemAt 0x10 = some (0, ⟨0x10, 100, 3600, 10, 1100⟩)
    ∧ leValue (Memory.readBytes (loadingEntry 0x10 3600).memory 6 4) = 3600
    ∧ leValue (Memory.readBytes (loadingEntry 0x10 100).memory 6 4) = 100
    ∧ leValue (Memory.readBytes (loadingEntry 0x10 105).memory 6 4) = 105 := by decide +kernel
theorem test_meets_LoadEndIsFinal :
    { State.reset with todo := [.loadEnd] }.awaits .loadEnd = true
    ∧ State.reset.settings.entriesRead = State.reset.settings.entryCount
    ∧ State.reset.settings.values.length = Config.items.length := by decide +kernel

theorem test_meets_StoreThenLoadRestoresTheSettings :
    (storing 0).settings.InRange ∧ Memory.wf (storing 0).memory ∧ (storing 0).settings.store = .inProgress 0
    ∧ (storing 0).settings.image = imageOf (storing 0).settings.values :=
  ⟨.of_check (by decide +kernel), by decide, rfl, rfl⟩

/-! ### Hypotheses met: invariants -/

/-- Contexts of falling priorities, as deep as the annunciator holds. -/
def deep : Annunciator :=
  { Annunciator.quiet with
    current := some ⟨1, .flameLost, 14, false⟩
    stack := [⟨2, .recordEnd, 10, true⟩, ⟨3, .starved, 8, false⟩, ⟨4, .linkBroken, 6, false⟩] }

theorem test_meets_StepKeepsContextsOrdered : deep.Ordered ∧ ∃ t, step { idle with ann := deep } = .next t :=
  ⟨⟨by decide, by decide, by decide⟩, _, rfl⟩
theorem test_meets_StepKeepsAnnunciatorSettled : kitchen.Settled ∧ ∃ t, step kitchen = .next t := ⟨test_kitchen_settled, _, rfl⟩
theorem test_meets_StepKeepsSettingsInRange :
    kitchen.settings.InRange ∧ Memory.wf [(0, 0xA6#8), (1, 0x01#8)] ∧ ∃ t, step kitchen = .next t :=
  ⟨test_kitchen_settings, by decide, _, rfl⟩
theorem test_meets_StepKeepsTableConsistent :
    kitchen.table.Consistent ∧ kitchen.LevelsFollow ∧ ∃ t, step kitchen = .next t :=
  ⟨test_kitchen_consistent, test_kitchen_levels, _, rfl⟩
theorem test_meets_StepKeepsLoadsWithinBudget : kitchen.LoadsFit ∧ ∃ t, step kitchen = .next t := ⟨test_kitchen_loads, _, rfl⟩
theorem test_meets_RemoteCommandsRaiseNoBurner :
    kitchen.table.Consistent ∧ kitchen.LevelsFollow ∧ commandCode .retire = some 0x11
    ∧ (askedFrom kitchen [7#8, 0x11#8, 1#8]).chosen = some (.remote, [7#8, 0x11#8, 1#8])
    ∧ ∃ t, exec .retire (askedFrom kitchen [7#8, 0x11#8, 1#8]) = .next t :=
  ⟨test_kitchen_consistent, test_kitchen_levels, rfl, by decide +kernel, _, rfl⟩

/-! ### Hypotheses met: boundaries -/

/-- Boundary work is still to be taken. -/
def due (s : State) (ws : List Work) : State := { s with todo := ws }

theorem test_meets_SliceBoundaryAdvancesTheTimeBase :
    kitchen.held = false ∧ (0 + 1 < 10 ∧ ¬(9 + 1 < 10)) ∧ kitchen.time.slice + 1 < 10 := by decide
theorem test_meets_BoundaryLeavesNoWork :
    State.reset.held = false ∧ State.reset.todo = [] ∧ State.reset.settings.finding ≠ .loading
    ∧ ¬({ kitchen.time with slice := 9 }.slice + 1 < 10) := by decide
theorem test_meets_BoundaryLeavesNoWork_shares :
    kitchen.time.slice < 10 ∧ kitchen.time.second < 10 ∧ (due kitchen [.count 1]).awaits .relays = false
    ∧ (due kitchen [.relays, .count 5]).awaits .relays = true ∧ (due kitchen [.relays, .count 5]).awaits .closePeriod = false
    ∧ (∀ v ∈ engineWork, (due kitchen [.openPeriod]).awaits v = false) ∧ (due kitchen [.openPeriod]).awaits .openPeriod = true
    ∧ (∀ v ∈ engineWork, (due kitchen (.refresh :: engineWork)).awaits v = true)
    ∧ (due kitchen (.refresh :: engineWork)).awaits .syncTick = false := by decide +kernel
theorem test_meets_SecondBoundaryTakesItsWork :
    (due kitchen [.clock, .refresh]).awaits .clock = true ∧ (due kitchen [.clock, .refresh]).awaits .refresh = true
    ∧ kitchen.windowInProgress = false ∧ (∃ w ∈ engineWork, (due kitchen [.clock, .refresh]).awaits w = false)
    ∧ { kitchen with panel := { kitchen.panel with frame := .window none } }.windowInProgress = true :=
  ⟨by decide +kernel, by decide +kernel, by decide +kernel, ⟨.count 1, by decide +kernel, by decide +kernel⟩, by decide +kernel⟩
theorem test_meets_PeriodBoundaryOpensThePeriod :
    (due kitchen [.closePeriod, .openPeriod, .count 5]).awaits .openPeriod = true ∧ kitchen.app.elements.length = 5
    ∧ (due kitchen [.openPeriod]).todo = [.openPeriod] ∧ kitchen.table.headRec? 6 = some (cooking 6)
    ∧ (kitchen.table.headRec? 7).any (fun r => r.state == .paused) = true := by decide +kernel
theorem test_meets_RequestsFollowTheHeads :
    (kitchen.table.requestStage? Config.OV).isSome = true ∧ kitchen.table.requestStage? Config.GR = none
    ∧ (kitchen.table.headRec? 6).isSome = true
    ∧ Table.empty.requestStage? Config.OV = none
    ∧ ((kitchen.table.modify 11 (fun r => { r with state := .running })).requestStage? Config.GR).isSome = true := by
  decide +kernel
theorem test_meets_PlacementTakesTheFirstSlicesWithRoom :
    0 < Apportioner.powerUp.elements.length ∧ (Apportioner.powerUp.element 0).on = [] ∧ (Apportioner.powerUp.element 4).on = []
    ∧ 4 < Apportioner.powerUp.elements.length ∧ Apportioner.powerUp.periodBudget < (Apportioner.powerUp.element 0).rating
    ∧ (Apportioner.powerUp.element 0).rating ≤ { Apportioner.powerUp with periodBudget := 1100 }.periodBudget
    ∧ (∀ e, e < 5 → (Apportioner.powerUp.element e).rank ≤ 7)
    ∧ { Apportioner.powerUp with elements := Apportioner.powerUp.elements.map (fun x : Element => { x with rank := 7 }) }.placementOrder
      = [0, 1, 2, 3, 4] := by decide
theorem test_meets_SliceStepInsideAPeriod :
    1 ≤ 1 ∧ Apportioner.powerUp.elements.length = 5
    ∧ fell (some ⟨true, false, false, 0#6⟩) ⟨false, false, false, 0#6⟩ Lines.hcall = true
    ∧ rose (some ⟨true, false, false, 0#6⟩) ⟨true, true, true, 0#6⟩ Lines.door = true
    ∧ rose (some ⟨true, false, false, 0#6⟩) ⟨true, true, true, 0#6⟩ Lines.shed = true
    ∧ rose none ⟨true, true, true, 0#6⟩ Lines.shed = false := by decide
theorem test_meets_SyncFallsAtZero :
    let s := { due kitchen [.syncTick] with snap := { kitchen.snap with syncCount := 1 } }
    s.awaits .syncTick = true ∧ s.snap.syncCount = 1 ∧ s.held = false := by decide +kernel
/-- A second boundary is due with the clock a second short of 00:10, or of 24:00 with the AT record due at 00:00; the DELAY counts 2,
and slot 15's offset began at this boundary. -/
def nearTen (reading minute : Nat) (work : List Work) : State :=
  due { kitchen with
    time := { kitchen.time with clock := reading }
    table := ((kitchen.table.modify 6 (fun r => { r with start := { r.start with count := 2 } })).modify 8
      (fun r => { r with start := { r.start with minute := minute } })).put 15
        (some { recordOf 3 .armed with start := { startOf .after with count := 1, offset := 1 } }) } (.released 15 :: .clock :: work)

theorem test_meets_CountedStartsFallDue :
    (nearTen 599 10 []).table.Consistent ∧ (nearTen 599 10 []).LevelsFollow ∧ (nearTen 599 10 []).awaits .clock = true
    ∧ (nearTen 599 10 []).awaits .refresh = false
    ∧ (kitchen.table.rec? 6).any (fun r => r.state == .armed && r.start.count == 1 && r.start.kind == .delay) = true
    ∧ (kitchen.table.rec? 7).any (fun r =>
        r.state == .armed && r.start.count == 1 && r.start.kind == .after && r.start.linked == 0) = true :=
  ⟨.of_check (by decide +kernel), .of_check (by decide +kernel), by decide +kernel⟩
theorem test_meets_CountedStartsFallDue_second :
    ((nearTen 599 10 [.refresh]).table.rec? 6).any (fun r =>
      r.state == .armed && decide (1 < r.start.count) && r.start.kind == .delay) = true
    ∧ (nearTen 599 10 []).awaits (.released 6) = false ∧ (nearTen 599 10 []).awaits (.released 15) = true
    ∧ ((nearTen 599 10 []).table.rec? 15).any (fun r =>
        r.state == .armed && r.start.kind == .after && r.start.linked == 0) = true
    ∧ ((nearTen 599 10 []).table.rec? 8).any (fun r => r.state == .armed && r.start.kind == .clockTime
        && r.start.minute * 60 == ((nearTen 599 10 []).time.clock + 1) % 86400) = true
    ∧ 0 * 60 = ((nearTen 86399 0 []).time.clock + 1) % 86400 ∧ 10 * 60 ≠ ((nearTen 598 10 []).time.clock + 1) % 86400
    ∧ (∀ j ∈ allSlots, (nearTen 598 10 []).awaits (.count j) = false)
    ∧ ((nearTen 599 10 []).table.rec? 3).any (fun r => r.state == .armed && r.start.kind == .after && r.start.linked != 0) = true
    ∧ ((nearTen 599 10 []).table.rec? 14).any (fun r => r.state == .armed && r.start.kind == .manual) = true := by decide +kernel

/-- A refresh named right after the clock shows the AT record of slot 8 as it was placed, behind slot 7, which fell due with it: never
ARMED for another day (R68, R70, R90). -/
theorem test_refresh_after_the_clock :
    let t := { nearTen 599 10 [] with time := { kitchen.time with slice := 9, clock := 599 }, todo := [] }.takeBoundary
      ⟨false, false, false, 0#6⟩ [.clock, .refresh] []
    t.table.head 3 = 7 ∧ t.table.queue 3 = [8, 15]
    ∧ t.snap.entry 8 = Entry.ofRecord 600 8 { recordOf 3 .queued with start := { startOf .clockTime with minute := 10 } } := by
  decide +kernel
/-- An offset count that a record end begins at a second boundary does not fall at that boundary (R76). -/
theorem test_released_offset_waits :
    let s := due (kitchen.modify 1 (fun r => { r with stage := 2 })) [.count 1, .clock]
    (((s.take (.count 1)).take .clock).table.rec? 4).map (fun r => r.start.count) = some 5
    ∧ ((((s.take (.count 1)).take .clock).table.rec? 3).map (fun r => r.state)) = some .running := by decide +kernel
theorem test_meets_WallStageEnds :
    kitchen.table.Consistent ∧ kitchen.LevelsFollow ∧ (due kitchen [.count 1]).awaits (.count 1) = true
    ∧ (due kitchen [.count 1]).awaits .closePeriod = false ∧ kitchen.table.rec? 1 = some (cooking 0)
    ∧ (cooking 0).state = .running ∧ (cooking 0).stageAt? 1 = some (stage 5 600 true) ∧ (cooking 0).remaining = 1
    ∧ (cooking 0).stage < (cooking 0).stages.length :=
  ⟨test_kitchen_consistent, test_kitchen_levels, by decide +kernel⟩
theorem test_meets_WallRecordEnds (b : Bool) :
    (pairState b).table.Consistent ∧ (pairState b).LevelsFollow ∧ (due (pairState b) [.count 1]).awaits (.count 1) = true
    ∧ (due (pairState b) [.count 1]).awaits .closePeriod = false
    ∧ ((pairState b).table.rec? 1).any (fun r => r.state == .running && r.stageAt? r.stage == some (stage 3 300 b)
        && r.remaining == 1 && r.stage == r.stages.length) = true
    ∧ ∀ j q, (pairState b).table.rec? j = some q → q.waitsOn 1 = false := by
  refine ⟨test_pair_consistent b, test_pair_levels b, by cases b <;> decide +kernel, by cases b <;> decide +kernel,
    by cases b <;> decide +kernel, fun j q hq => ?_⟩
  have h : (pairState b).table.slotsWhere (fun q => q.waitsOn 1) = [] := by cases b <;> decide +kernel
  by_contra hne
  have hp := Table.rec?_some_pos hq
  have hl : (pairState b).table.slots.length = 48 := by cases b <;> decide +kernel
  have hm := (Table.mem_slotsWhere (t := (pairState b).table) (p := fun q => q.waitsOn 1)).mpr
    ⟨mem_allSlots.mpr (show 1 ≤ j ∧ j ≤ Config.slotCount by simp only [Config.slotCount]; omega), q, hq, by simpa using hne⟩
  rw [h] at hm
  exact absurd hm List.not_mem_nil
theorem test_meets_RecordEndReleasesDependents :
    let s := kitchen.modify 1 (fun r => { r with stage := 2 })
    s.table.Consistent ∧ s.table.rec? 1 = some { cooking 0 with stage := 2 } ∧ s.table.rec? 3 = some (waiting 1 1 0)
    ∧ s.table.rec? 4 = some (waiting 1 1 5) ∧ (waiting 1 1 0).waitsOn 1 = true ∧ (waiting 1 1 5).waitsOn 1 = true :=
  ⟨.of_check (by decide +kernel), by decide +kernel⟩
theorem test_meets_FlameIsJudged :
    kitchen.table.headRec? 0 = some (cooking 0) ∧ (kitchen.burner 0).level ≠ 0 ∧ (cooking 0).grace = 0
    ∧ { cooking 0 with absent := 3 }.absent < 4 ∧ 0 < { cooking 0 with grace := 1 }.grace
    ∧ kitchen.time.lines.flm.getLsbD 0 = false ∧ (1#6 : BitVec 6).getLsbD 0 = true ∧ (kitchen.burner 5).level = 0
    ∧ (kitchen.table.headRec? 5).isSome = true := by decide +kernel
theorem test_meets_FlameLossIsTaken :
    kitchen.table.Consistent ∧ (due kitchen [.judge 0]).awaits (.judge 0) = true ∧ (kitchen.burner 0).level ≠ 0
    ∧ kitchen.table.headRec? 0 = some (cooking 0) ∧ (cooking 0).state = .running ∧ (cooking 0).grace = 0
    ∧ (cooking 0).absent = 4 ∧ kitchen.time.lines.flm.getLsbD 0 = false :=
  ⟨test_kitchen_consistent, by decide +kernel⟩

/-- A burner that stays lit for its ended record, four absent samples counted. -/
def keptLit : State :=
  { idle with
    table := { Table.empty.put 1 (some { cooking 5 with state := .ended, stage := 2, remaining := 0, keep := true }) with
      heads := [0, 0, 0, 0, 0, 1, 0, 0] }
    burners := List.replicate 5 ⟨0, 0⟩ ++ [⟨3, 1⟩] }

theorem test_meets_FlameLossIsTaken_kept :
    keptLit.table.Consistent ∧ (due keptLit [.judge 5]).awaits (.judge 5) = true ∧ (keptLit.burner 5).level ≠ 0
    ∧ (keptLit.table.headRec? 5).any (fun r => r.state == .ended && r.grace == 0 && r.absent == 4) = true
    ∧ keptLit.time.lines.flm.getLsbD 5 = false :=
  ⟨.of_check (by decide +kernel), by decide +kernel⟩
theorem test_meets_SoundTimeoutMutes :
    let s := { due kitchen [.alertTick] with ann := { kitchenAlert with timer := 1199 } }
    let t := { due kitchen [.alertTick] with ann := { kitchenAlert with fresh := true, ousted := some 1199 } }
    s.Settled ∧ s.awaits .alertTick = true ∧ s.ann.current = some ⟨9, .recordEnd, 10, false⟩ ∧ s.ann.fresh = false
    ∧ 10 * s.settings.value Config.soundId ≤ s.ann.timer + 1 ∧ s.ann.ousted = none ∧ 10 < s.settings.priority .flameLost
    ∧ t.Settled ∧ t.awaits .alertTick = true ∧ t.ann.current = some ⟨9, .recordEnd, 10, false⟩ ∧ t.ann.fresh = true
    ∧ t.ann.ousted = some 1199 ∧ 10 * t.settings.value Config.soundId ≤ 1199 + 1
    ∧ 1198 + 1 < 10 * s.settings.value Config.soundId :=
  ⟨.of_check (by decide +kernel), by decide +kernel, rfl, rfl, by decide +kernel, rfl, by decide +kernel,
   .of_check (by decide +kernel), by decide +kernel, rfl, rfl, rfl, by decide +kernel, by decide +kernel⟩
theorem test_meets_WallStageCounts :
    (kitchen.modify 1 (fun r => { r with remaining := 2 })).table.rec? 1 = some { cooking 0 with remaining := 2 }
    ∧ (kitchen.table.rec? 11).any (fun r => r.state != .running) = true ∧ (cooking 0).stageAt? 1 = some (stage 5 600 true)
    ∧ (kitchen.modify 5 (fun r => { r with remaining := 2 })).table.rec? 5 = some { cooking 6 with remaining := 2 }
    ∧ kitchen.time.slice = 0 ∧ kitchen.time.second = 0 ∧ { kitchen.time with slice := 1 }.slice ≠ 0 := by decide +kernel
theorem test_meets_PeriodFiguresReachTheRecord :
    { cooking 6 with stages := [{ stage 5 600 true with basis := .compensated }] }.stageAt? 1
      = some { stage 5 600 true with basis := .compensated }
    ∧ (6 ≤ (if 0 < 100 ∧ 2 * 49 < 100 then min 60 (5 + 1) else 0)) ∧ (if 0 < 100 ∧ 2 * 50 < 100 then min 60 (5 + 1) else 0) < 6
    ∧ Apportioner.powerUp.elements.length = 5 := by
  decide

/-- A period has just begun: a COMPENSATED stage of the oven record of slot 1 with the given time left and accumulator, and 490 of
1,000 delivered. -/
def periodCooking (n remaining acc : Nat) (standing : Standing) : State :=
  let r := { cooking 6 with
    stages := [stage 5 600 true, stage 3 300 false].map (fun g => { g with basis := .compensated })
    stage := n, remaining := remaining, acc := acc, standing := standing }
  due { idle with
    table := { (Table.empty.put 1 (some r)).put 2 (some (recordOf 6 .queued)) with
      heads := [0, 0, 0, 0, 0, 0, 1, 0], queues := [[], [], [], [], [], [], [2], []] }
    app := { idle.app with oven := ⟨1000, 490⟩ } } [.count 1]

theorem test_meets_PeriodFiguresReachTheRecord_end :
    (periodCooking 1 49 0 .whole).table.Consistent ∧ (periodCooking 1 49 0 .whole).LevelsFollow
    ∧ (periodCooking 1 49 0 .whole).awaits (.count 1) = true ∧ (periodCooking 1 49 0 .whole).awaits .closePeriod = false
    ∧ (periodCooking 1 49 0 .whole).time.slice = 0 ∧ (periodCooking 1 49 0 .whole).time.second = 0
    ∧ ((periodCooking 1 49 0 .whole).table.rec? 1).any (fun r => r.state == .running && r.station == 6
        && (r.stageAt? r.stage).any (fun g => g.basis == .compensated)) = true
    ∧ 1000 * 49 ≤ 0 + 100000 * 490 / 1000 ∧ 1000 * 5 ≤ 0 + 1000 * (4 + 1)
    ∧ (periodCooking 2 5 0 (.part 4)).table.Consistent ∧ (periodCooking 2 5 0 (.part 4)).LevelsFollow
    ∧ ((periodCooking 2 5 0 (.part 4)).table.rec? 1).any (fun r => r.stage == r.stages.length && r.standing == .part 4) = true :=
  ⟨.of_check (by decide +kernel), .of_check (by decide +kernel), by decide +kernel, by decide +kernel, rfl, rfl,
   by decide +kernel, by decide, by decide, .of_check (by decide +kernel), .of_check (by decide +kernel), by decide +kernel⟩
theorem test_meets_WallStageCounts_credit :
    ((periodCooking 1 50 999 .whole).table.rec? 1).any (fun r => r.state == .running && r.station == 6
      && (r.stageAt? r.stage).any (fun g => g.basis == .compensated) && decide (r.acc + 100000 * 490 / 1000 < 1000 * r.remaining)) = true
    ∧ ((periodCooking 1 1 0 .void).table.rec? 1).any (fun r => r.standing == .void) = true := by decide +kernel
theorem test_meets_TotalRemainingTime :
    (recordOf 0 .armed).state = .armed ∧ (cooking 0).state = .running ∧ (recordOf 0 .ended).state = .ended := by decide
theorem test_meets_EvaluationFollowsItsTable :
    Annunciator.quiet.current = none ∧ deep.current = some ⟨1, .flameLost, 14, false⟩
    ∧ idle.settings.priority .flameLost ≤ 14
    ∧ (10 < idle.settings.priority .flameLost ∧ kitchenAlert.current = some ⟨9, .recordEnd, 10, false⟩)
    ∧ kitchenAlert.mute.current = some ⟨9, .recordEnd, 10, true⟩ := by decide +kernel
theorem test_meets_EvaluationFollowsItsTable_stack :
    let s := { kitchen with ann := { deep with stack := [⟨2, .recordEnd, 12, true⟩, ⟨9, .recordEnd, 10, true⟩] } }
    s.ann.current = some ⟨1, .flameLost, 14, false⟩ ∧ s.table.hasAlert 1 .flameLost = false
    ∧ s.ann.stack.filter (Context.alive s.table s.settings) = [⟨9, .recordEnd, 10, true⟩]
    ∧ kitchenAlert.stack.filter (Context.alive kitchen.table kitchen.settings) = []
    ∧ kitchen.table.hasAlert 9 .recordEnd = true ∧ 1 ≤ kitchen.settings.priority .recordEnd := by decide +kernel
theorem test_meets_SignallingLinesFollowTheState :
    kitchen.held = false ∧ { kitchen with held := true }.held = true
    ∧ (∃ t, exec (.powerOn 0#2 [] false) kitchen = .next t)
    ∧ (asked kitchen [1#8, 0x61#8]).Takes .panel 0x61 [1#8, 0x61#8] :=
  ⟨rfl, rfl, ⟨_, rfl⟩, taken (by decide +kernel)⟩
/-! ### Hypotheses met: commands -/

theorem test_meets_ArbiterChoosesAPort :
    (asked idle [1#8]).panel.commands ≠ [] ∧ (asked idle [1#8]).panel.replies.length < 8
    ∧ (askedFrom idle [1#8]).remote.commands ≠ [] ∧ (askedFrom (asked idle [1#8]) [1#8]).lastServed = .remote
    ∧ { idle with lastServed := .panel }.lastServed = .panel ∧ idle.chosen = none
    ∧ commandCode .query = some 0x20 ∧ (asked idle [1#8, 0x20#8]).chosen = some (.panel, [1#8, 0x20#8])
    ∧ codeOf? [1#8, 0x20#8] = some 0x20 := by decide +kernel
theorem test_meets_ATakenCommandIsAnsweredOnce :
    commandCode .softReset = some 0x61 ∧ (asked idle [1#8, 0x61#8]).chosen = some (.panel, [1#8, 0x61#8])
    ∧ codeOf? [1#8, 0x61#8] = some 0x61 := by decide +kernel
theorem test_meets_TheFirstFailedCheckAnswers :
    (asked State.reset [1#8, 0x20#8]).chosen = some (.panel, [1#8, 0x20#8]) ∧ (asked State.reset [1#8, 0x20#8]).loading = true
    ∧ (asked idle [1#8, 0x20#8]).loading = false ∧ lengthOk 0x20 [1#8, 0x20#8] = false
    ∧ codeOf? [1#8, 0xFF#8] = some 0xFF ∧ parameterBytes 0xFF = none ∧ parameterBytes 0x10 = none
    ∧ (asked idle []).chosen = some (.panel, []) ∧ ([1#8] : List Byte).length ≤ 1 := by decide +kernel

/-- Every station at the given permission. -/
def permitted (n : Nat) (s : State) : State :=
  { s with settings := (List.range 8).foldl (fun u st => u.withValue (0x50 + st) n) s.settings }

theorem test_meets_TheFirstFailedCheckAnswers_early :
    (askedFrom idle [1#8, 0x61#8]).Takes .remote 0x61 [1#8, 0x61#8]
    ∧ (asked (storing 0) [1#8, 0x52#8]).Takes .panel 0x52 [1#8, 0x52#8] ∧ (storing 0).settings.storing = true
    ∧ (asked idle [1#8, 0x11#8, 49#8]).Takes .panel 0x11 [1#8, 0x11#8, 49#8] ∧ field [1#8, 0x11#8, 0#8] 2 1 = 0
    ∧ (asked idle [1#8, 0x14#8, 1#8, 0x80#8, 0x51#8, 1#8, 0#8]).Takes .panel 0x14 [1#8, 0x14#8, 1#8, 0x80#8, 0x51#8, 1#8, 0#8]
    ∧ 86399 < signedField [1#8, 0x14#8, 1#8, 0x80#8, 0x51#8, 1#8, 0#8] 3
    ∧ signedField [1#8, 0x14#8, 1#8, 0x80#8, 0xAE#8, 0xFE#8, 0xFF#8] 3 < -86399
    ∧ (∀ it ∈ Config.items, field [1#8, 0x51#8, 0xFF#8, 0#8] 2 2 ≠ it.id) ∧ 7 < field [1#8, 0x62#8, 8#8] 2 1
    ∧ (asked idle [1#8, 0x41#8, 9#8, 8#8]).Takes .panel 0x41 [1#8, 0x41#8, 9#8, 8#8]
    ∧ (asked idle [1#8, 0x40#8, 24#8, 0#8, 0#8]).Takes .panel 0x40 [1#8, 0x40#8, 24#8, 0#8, 0#8] :=
  ⟨taken (by decide +kernel), taken (by decide +kernel), by decide +kernel, taken (by decide +kernel), by decide +kernel,
   taken (by decide +kernel), by decide +kernel, by decide +kernel, by decide +kernel, by decide +kernel,
   taken (by decide +kernel), taken (by decide +kernel)⟩

theorem test_meets_TheFirstFailedCheckAnswers_settings :
    let grant : List Byte := [1#8, 0x60#8, 0#8, 3#8]
    let item : List Byte := [1#8, 0x50#8, 0x31#8, 0#8, 0xC2#8, 0x0B#8, 0#8, 0#8]
    (asked idle grant).Takes .panel 0x60 grant ∧ 2 < field grant 3 1 ∧ 7 < field [1#8, 0x60#8, 8#8, 0#8] 2 1
    ∧ (asked idle item).Takes .panel 0x50 item ∧ field item 2 2 = 0x31 ∧ idle.settings.value 0x30 < field item 4 4
    ∧ (∀ it ∈ Config.items, field [1#8, 0x50#8, 0x46#8, 0#8, 0#8, 0#8, 0#8, 0#8] 2 2 ≠ it.id) ∧ idle.settings.storing = false
    ∧ (asked (storing 0) grant).Takes .panel 0x60 grant ∧ (asked (storing 0) item).Takes .panel 0x50 item :=
  ⟨taken (by decide +kernel), by decide +kernel, by decide +kernel, taken (by decide +kernel), by decide +kernel, by decide +kernel,
   by decide +kernel, by decide +kernel, taken (by decide +kernel), taken (by decide +kernel)⟩

theorem test_meets_TheFirstFailedCheckAnswers_ended :
    let bytes : List Byte := [1#8, 0x14#8, 10#8, 0xFF#8, 0xFF#8, 0xFF#8, 0xFF#8]
    (askedFrom (permitted 2 kitchen) bytes).Takes .remote 0x14 bytes ∧ signedField bytes 3 ≤ 0
    ∧ (kitchen.table.rec? 10).any (fun r => r.state == .ended && decide (r.station < 6)) = true
    ∧ (askedFrom (permitted 2 kitchen) [1#8, 0x12#8, 12#8]).Takes .remote 0x12 [1#8, 0x12#8, 12#8]
    ∧ (kitchen.table.rec? 12).any (fun r => r.state != .running) = true :=
  ⟨taken (by decide +kernel), by decide +kernel, by decide +kernel, taken (by decide +kernel), by decide +kernel⟩

theorem test_meets_TheFirstFailedCheckAnswers_record :
    idle.table.rec? 1 = none ∧ (asked idle [1#8, 0x20#8, 1#8]).Takes .panel 0x20 [1#8, 0x20#8, 1#8]
    ∧ (permitted 0 kitchen).settings.permission 0 = 0 ∧ (permitted 1 kitchen).settings.permission 0 = 1
    ∧ (permitted 2 kitchen).settings.permission 7 = 2
    ∧ (askedFrom (permitted 1 kitchen) [1#8, 0x31#8, 1#8, 0#8]).Takes .remote 0x31 [1#8, 0x31#8, 1#8, 0#8]
    ∧ (askedFrom (permitted 2 kitchen) [1#8, 0x13#8, 12#8]).Takes .remote 0x13 [1#8, 0x13#8, 12#8]
    ∧ (askedFrom (permitted 2 kitchen) [1#8, 0x15#8, 1#8, 6#8, 0#8]).Takes .remote 0x15 [1#8, 0x15#8, 1#8, 6#8, 0#8]
    ∧ (kitchen.table.rec? 1).any (fun r => (r.stageAt? r.stage).any (fun g => decide (g.level < min 9 6))) = true
    ∧ (asked kitchen [1#8, 0x16#8, 11#8]).Takes .panel 0x16 [1#8, 0x16#8, 11#8]
    ∧ (kitchen.table.rec? 11).any (fun r => r.state != .running) = true
    ∧ (askedFrom (permitted 2 kitchen) [1#8, 0x11#8, 1#8]).Takes .remote 0x11 [1#8, 0x11#8, 1#8]
    ∧ kitchen.table.head 0 = 1 ∧ kitchen.table.queue 0 ≠ [] :=
  ⟨by decide +kernel, taken (by decide +kernel), by decide +kernel, by decide +kernel, by decide +kernel,
   taken (by decide +kernel), taken (by decide +kernel), taken (by decide +kernel), by decide +kernel,
   taken (by decide +kernel), by decide +kernel, taken (by decide +kernel), by decide +kernel, by decide +kernel⟩

/-- The oven's record is in its last stage and a gas record waits on it with offset 0; the clock stands a second short of 00:10. -/
def guardedState : State :=
  { permitted 2 kitchen with
    table := (kitchen.table.modify 5 (fun r => { r with stage := 2 })).put 15 (some (waiting 4 5 0))
    time := { kitchen.time with clock := 599, valid := true } }

theorem test_meets_TheFirstFailedCheckAnswers_guards :
    (askedFrom guardedState [1#8, 0x16#8, 5#8]).Takes .remote 0x16 [1#8, 0x16#8, 5#8]
    ∧ (guardedState.table.rec? 5).any (fun r => r.station == 6 && r.state == .running && r.stages.length == r.stage) = true
    ∧ (guardedState.table.rec? 15).any (fun q => q.waitsOn 5 && q.station == 4 && q.start.offset == 0) = true
    ∧ (askedFrom guardedState [1#8, 0x40#8, 0#8, 10#8, 0#8]).Takes .remote 0x40 [1#8, 0x40#8, 0#8, 10#8, 0#8]
    ∧ (3600 * 0 + 60 * 10 + 0 + 86400 - guardedState.time.clock) % 86400 = 1
    ∧ (guardedState.table.rec? 8).any (fun r => r.state == .armed && r.start.kind == .clockTime && decide (r.station < 6)
        && decide (clockCountdown guardedState.time.clock r.start.minute ≤ 1)) = true :=
  ⟨taken (by decide +kernel), by decide +kernel, by decide +kernel, taken (by decide +kernel), by decide +kernel⟩
/-- A CREATE on a station with a start kind and its three bytes: one stage, level 5, 60 s, WALL, OFF. -/
def createBytes (station kind a b c : Nat) : List Byte :=
  [1#8, 0x10#8, byteOf station, byteOf kind, byteOf a, byteOf b, byteOf c, 0#8, 0#8, 1#8, 5#8, 60#8, 0#8, 0#8]

theorem test_meets_CreateWritesTheRecord :
    kitchen.table.slots.length = 48 ∧ (asked kitchen (createBytes 1 4 3 88 2)).Takes .panel 0x10 (createBytes 1 4 3 88 2)
    ∧ (parseCreate (createBytes 1 4 3 88 2)).any (fun c => c.acceptable && c.start?.any (fun sc =>
        sc.kind == .after && sc.linked == 3 && sc.offset == 600 && !kitchen.table.dueAtCreate sc)) = true
    ∧ kitchen.fullAccess .panel 1 = true ∧ 1 + kitchen.table.depth 5 3 < 5 ∧ kitchen.table.free? = some 15
    ∧ kitchen.table.stationCount 1 = 2
    ∧ (kitchen.table.rec? 3).any (fun q => portViews kitchen.settings .panel q.station) = true :=
  ⟨by decide +kernel, taken (by decide +kernel), by decide +kernel⟩

/-- Slots 15, 16 and 17 wait on one another above slot 3: slot 17 has depth 4. Three more records of station 2 stand beside the one of
slot 6. -/
def deepKitchen : State :=
  { kitchen with table :=
      ((((((kitchen.table.put 15 (some (waiting 2 3 0))).put 16 (some (waiting 2 15 0))).put 17 (some (waiting 5 16 0))).put 18
        (some (recordOf 2 .armed))).put 19 (some (recordOf 2 .armed))).put 20 (some (recordOf 2 .armed))) }

/-- Every slot holds a record. -/
def packed : Table := { Table.empty with slots := List.replicate 48 (some (recordOf 2 .armed)) }

theorem test_meets_CreateWritesTheRecord_refused :
    deepKitchen.table.Consistent ∧ deepKitchen.table.depth 5 17 = 4 ∧ deepKitchen.table.depth 5 16 = 3
    ∧ 6 ≤ deepKitchen.table.stationCount 2 ∧ deepKitchen.table.rec? 21 = none
    ∧ (asked deepKitchen (createBytes 1 4 17 0 0)).Takes .panel 0x10 (createBytes 1 4 17 0 0)
    ∧ (asked deepKitchen (createBytes 2 1 0 0 0)).Takes .panel 0x10 (createBytes 2 1 0 0 0)
    ∧ (asked { idle with table := packed } (createBytes 1 1 0 0 0)).Takes .panel 0x10 (createBytes 1 1 0 0 0)
    ∧ (∀ k, 1 ≤ k → k ≤ 48 → packed.rec? k ≠ none)
    ∧ (asked idle (createBytes 1 3 0 0 0)).Takes .panel 0x10 (createBytes 1 3 0 0 0) ∧ idle.time.valid = false
    ∧ idle.table.rec? 48 = none ∧ (asked idle (createBytes 1 4 48 0 0)).Takes .panel 0x10 (createBytes 1 4 48 0 0)
    ∧ (parseCreate (createBytes 8 1 0 0 0)).any (fun c => !c.acceptable) = true
    ∧ (parseCreate (createBytes 7 2 0x80 0x51 1)).any (fun c => c.acceptable && c.start? == none) = true
    ∧ (askedFrom (permitted 2 idle) (createBytes 5 1 0 0 0)).Takes .remote 0x10 (createBytes 5 1 0 0 0)
    ∧ (askedFrom (permitted 1 idle) (createBytes 6 1 0 0 0)).Takes .remote 0x10 (createBytes 6 1 0 0 0) := by
  refine ⟨.of_check (by decide +kernel), by decide +kernel, by decide +kernel, by decide +kernel, by decide +kernel,
    taken (by decide +kernel), taken (by decide +kernel), taken (by decide +kernel), ?_, taken (by decide +kernel), rfl,
    by decide +kernel, taken (by decide +kernel), by decide +kernel, by decide +kernel, taken (by decide +kernel),
    taken (by decide +kernel)⟩
  intro k h1 h2 h
  have hall : ∀ k ∈ allSlots, packed.rec? k ≠ none := by decide +kernel
  exact hall k (mem_allSlots.mpr (by simp only [Config.slotCount]; omega)) h
theorem test_meets_CreateNowAndStartPlaceTheRecord :
    kitchen.table.Consistent ∧ kitchen.LevelsFollow
    ∧ (asked kitchen (createBytes 2 0 0 0 0)).Takes .panel 0x10 (createBytes 2 0 0 0 0)
    ∧ (parseCreate (createBytes 2 0 0 0 0)).any (fun c => c.acceptable && c.kind == 0 && c.station == 2) = true
    ∧ kitchen.table.free? = some 15 ∧ kitchen.table.stationCount 2 < 6
    ∧ (asked kitchen (createBytes 2 4 9 0 0)).Takes .panel 0x10 (createBytes 2 4 9 0 0)
    ∧ (parseCreate (createBytes 2 4 9 0 0)).any (fun c =>
        c.acceptable && c.kind == 4 && field c.start 0 1 == 9 && field c.start 1 2 == 0) = true
    ∧ (kitchen.table.rec? 9).any (fun q => q.state == .ended && portViews kitchen.settings .panel q.station) = true
    ∧ (asked kitchen [1#8, 0x17#8, 3#8]).Takes .panel 0x17 [1#8, 0x17#8, 3#8]
    ∧ (asked kitchen [1#8, 0x17#8, 3#8]).Reaches .panel [1#8, 0x17#8, 3#8] (waiting 1 1 0)
    ∧ (waiting 1 1 0).state = .armed :=
  ⟨test_kitchen_consistent, test_kitchen_levels, taken (by decide +kernel), by decide +kernel, by decide +kernel,
   by decide +kernel, taken (by decide +kernel), by decide +kernel, by decide +kernel, taken (by decide +kernel),
   reached (by decide +kernel), rfl⟩
theorem test_meets_RetireEmptiesTheSlot :
    kitchen.table.Consistent ∧ kitchen.LevelsFollow ∧ (asked kitchen [1#8, 0x11#8, 1#8]).Takes .panel 0x11 [1#8, 0x11#8, 1#8]
    ∧ (asked kitchen [1#8, 0x11#8, 1#8]).Reaches .panel [1#8, 0x11#8, 1#8] (cooking 0)
    ∧ kitchen.table.rec? 3 = some (waiting 1 1 0) ∧ (waiting 1 1 0).waitsOn 1 = true ∧ kitchen.table.head 0 = 1
    ∧ kitchen.table.queue 0 = [2] ∧ (asked kitchen [1#8, 0x11#8, 2#8]).Reaches .panel [1#8, 0x11#8, 2#8] (recordOf 0 .queued) :=
  ⟨test_kitchen_consistent, test_kitchen_levels, taken (by decide +kernel), reached (by decide +kernel), by decide +kernel, by decide +kernel,
   by decide +kernel, by decide +kernel, reached (by decide +kernel)⟩
theorem test_meets_PauseStopsTheRecord :
    kitchen.table.Consistent ∧ (asked kitchen [1#8, 0x12#8, 5#8]).Takes .panel 0x12 [1#8, 0x12#8, 5#8]
    ∧ (asked kitchen [1#8, 0x12#8, 5#8]).Reaches .panel [1#8, 0x12#8, 5#8] (cooking 6) ∧ (cooking 6).state = .running
    ∧ (asked kitchen [1#8, 0x12#8, 1#8]).Reaches .panel [1#8, 0x12#8, 1#8] (cooking 0) :=
  ⟨test_kitchen_consistent, taken (by decide +kernel), reached (by decide +kernel), rfl, reached (by decide +kernel)⟩
theorem test_meets_ResumeRestoresTheRecord :
    kitchen.table.Consistent ∧ kitchen.LevelsFollow ∧ (asked kitchen [1#8, 0x13#8, 12#8]).Takes .panel 0x13 [1#8, 0x13#8, 12#8]
    ∧ (asked kitchen [1#8, 0x13#8, 12#8]).Reaches .panel [1#8, 0x13#8, 12#8] { recordOf 4 .held with stage := 1, remaining := 7 }
    ∧ (asked kitchen [1#8, 0x13#8, 11#8]).Reaches .panel [1#8, 0x13#8, 11#8] { recordOf 7 .paused with stage := 1, remaining := 7 }
    ∧ (asked kitchen [1#8, 0x13#8, 10#8]).Reaches .panel [1#8, 0x13#8, 10#8]
        { recordOf 5 .ended with stage := 2, keep := true, flameOut := true }
    ∧ { recordOf 4 .held with stage := 1 }.shownStage? = some (stage 5 600 true) :=
  ⟨test_kitchen_consistent, test_kitchen_levels, taken (by decide +kernel), reached (by decide +kernel),
   reached (by decide +kernel), reached (by decide +kernel), by decide⟩

/-- ADJUST of a slot by the greatest negative change, and by the greatest positive one. -/
def adjustBytes (slot : Nat) (up : Bool) : List Byte :=
  [1#8, 0x14#8, byteOf slot] ++ (if up then [0x7F#8, 0x51#8, 0x01#8, 0x00#8] else [0x81#8, 0xAE#8, 0xFE#8, 0xFF#8])

theorem test_meets_AdjustChangesTheTime :
    (asked kitchen (adjustBytes 1 false)).Takes .panel 0x14 (adjustBytes 1 false)
    ∧ (asked kitchen (adjustBytes 1 false)).Reaches .panel (adjustBytes 1 false) (cooking 0)
    ∧ signedField (adjustBytes 1 false) 3 = -86399 ∧ signedField (adjustBytes 1 true) 3 = 86399
    ∧ (asked kitchen (adjustBytes 2 true)).Reaches .panel (adjustBytes 2 true) (recordOf 0 .queued)
    ∧ (recordOf 0 .queued).stages = stage 5 600 true :: [stage 3 300 false]
    ∧ (asked kitchen (adjustBytes 9 true)).Reaches .panel (adjustBytes 9 true) { recordOf 5 .ended with stage := 2, alerts := 2#6 } :=
  ⟨taken (by decide +kernel), reached (by decide +kernel), by decide +kernel, by decide +kernel, reached (by decide +kernel),
   rfl, reached (by decide +kernel)⟩
theorem test_meets_AdjustChangesTheTime_reminder :
    let near := { cooking 0 with reminder := some 30, remaining := 2 }
    let down := adjustBytes 1 false
    let up := adjustBytes 1 true
    (asked { kitchen with table := kitchen.table.put 1 (some near) } down).Reaches .panel down near
    ∧ near.reminderDone = false ∧ { near with remaining := 10 }.reminder.any (fun n =>
        decide ({ near with remaining := 10 }.total ≤ 10 * n)) = false
    ∧ { near with reminder := some 31, remaining := 10 }.reminder.any (fun n =>
        decide ({ near with remaining := 10 }.total ≤ 10 * n)) = true
    ∧ (asked kitchen up).Takes .panel 0x14 up ∧ (cooking 0).hasAlert .reminder = false :=
  ⟨reached (by decide +kernel), rfl, by decide +kernel, by decide +kernel, taken (by decide +kernel), by decide +kernel⟩
theorem test_meets_SetLevelWritesTheStage :
    kitchen.table.Consistent ∧ kitchen.LevelsFollow
    ∧ (asked kitchen [1#8, 0x15#8, 1#8, 9#8, 0#8]).Takes .panel 0x15 [1#8, 0x15#8, 1#8, 9#8, 0#8]
    ∧ (asked kitchen [1#8, 0x15#8, 1#8, 9#8, 0#8]).Reaches .panel [1#8, 0x15#8, 1#8, 9#8, 0#8] (cooking 0)
    ∧ field [1#8, 0x15#8, 1#8, 9#8, 0#8] 3 2 = 9 ∧ (cooking 0).stageAt? (cooking 0).stage = some (stage 5 600 true)
    ∧ (asked kitchen [1#8, 0x15#8, 11#8, 4#8, 1#8]).Reaches .panel [1#8, 0x15#8, 11#8, 4#8, 1#8]
        { recordOf 7 .paused with stage := 1, remaining := 7 }
    ∧ field [1#8, 0x15#8, 11#8, 4#8, 1#8] 3 2 % 256 ≠ 0
    ∧ (asked kitchen [1#8, 0x15#8, 14#8, 180#8, 0#8]).Reaches .panel [1#8, 0x15#8, 14#8, 180#8, 0#8]
        { recordOf 6 .armed with origin := .remote } :=
  ⟨test_kitchen_consistent, test_kitchen_levels, taken (by decide +kernel), reached (by decide +kernel), by decide +kernel,
   by decide +kernel, reached (by decide +kernel), by decide +kernel, reached (by decide +kernel)⟩
theorem test_meets_SetLevelWritesTheStage_line :
    kitchen.held = false ∧ { kitchen with held := true }.held = true ∧ kitchen.loading = false ∧ State.reset.loading = true
    ∧ (kitchen.burner 0).level ≤ 9 ∧ (kitchen.burner 5).level = 0 := by decide +kernel
theorem test_meets_SkipEndsTheStage :
    kitchen.table.Consistent ∧ kitchen.LevelsFollow ∧ (asked kitchen [1#8, 0x16#8, 1#8]).Takes .panel 0x16 [1#8, 0x16#8, 1#8]
    ∧ (asked kitchen [1#8, 0x16#8, 1#8]).Reaches .panel [1#8, 0x16#8, 1#8] (cooking 0)
    ∧ (cooking 0).stage < (cooking 0).stages.length
    ∧ (asked (pairState true) [1#8, 0x16#8, 1#8]).Takes .panel 0x16 [1#8, 0x16#8, 1#8]
    ∧ ((pairState true).table.rec? 1).any (fun r => r.state == .running && r.stage == r.stages.length) = true :=
  ⟨test_kitchen_consistent, test_kitchen_levels, taken (by decide +kernel), reached (by decide +kernel), by decide,
   taken (by decide +kernel), by decide +kernel⟩
theorem test_meets_ReadingCommandsOnlyAnswer :
    (asked kitchen [1#8, 0x20#8, 1#8]).Takes .panel 0x20 [1#8, 0x20#8, 1#8] ∧ kitchen.table.rec? 1 = some (cooking 0)
    ∧ portViews kitchen.settings .remote 0 = true ∧ portViews (permitted 0 kitchen).settings .remote 7 = false
    ∧ (asked kitchen [1#8, 0x21#8, 7#8]).Takes .panel 0x21 [1#8, 0x21#8, 7#8]
    ∧ (asked kitchen [1#8, 0x30#8]).Takes .panel 0x30 [1#8, 0x30#8]
    ∧ kitchen.ann.current = some ⟨9, .recordEnd, 10, false⟩ ∧ (kitchen.table.rec? 9).isSome = true ∧ idle.ann.current = none
    ∧ kitchen.table.waits kitchen.settings (portViews kitchen.settings .panel) (9, .recordEnd)
    ∧ (askedFrom kitchen [1#8, 0x51#8, 0x62#8, 0#8]).Takes .remote 0x51 [1#8, 0x51#8, 0x62#8, 0#8]
    ∧ (⟨0x62, 2, 60, 1, 6⟩ : Config.Item) ∈ Config.items ∧ field [1#8, 0x51#8, 0x62#8, 0#8] 2 2 = 0x62
    ∧ (asked kitchen [1#8, 0x53#8]).Takes .panel 0x53 [1#8, 0x53#8] :=
  ⟨taken (by decide +kernel), by decide +kernel, by decide +kernel, by decide +kernel, taken (by decide +kernel),
   taken (by decide +kernel), rfl, by decide +kernel, rfl,
   ⟨by decide, { recordOf 5 .ended with stage := 2, alerts := 2#6 }, by decide +kernel, rfl, by decide, by decide +kernel⟩,
   taken (by decide +kernel), by decide +kernel, by decide +kernel, taken (by decide +kernel)⟩
theorem test_meets_AckClearsTheFlag :
    kitchen.table.Consistent ∧ (asked kitchen [1#8, 0x31#8, 9#8, 1#8]).Takes .panel 0x31 [1#8, 0x31#8, 9#8, 1#8]
    ∧ (asked kitchen [1#8, 0x31#8, 9#8, 1#8]).Reaches .panel [1#8, 0x31#8, 9#8, 1#8]
        { recordOf 5 .ended with stage := 2, alerts := 2#6 }
    ∧ field [1#8, 0x31#8, 9#8, 1#8] 3 1 = AlertKind.recordEnd.num
    ∧ (asked kitchen [1#8, 0x31#8, 1#8, 5#8]).Reaches .panel [1#8, 0x31#8, 1#8, 5#8] (cooking 0)
    ∧ field [1#8, 0x31#8, 1#8, 5#8] 3 1 = AlertKind.reminder.num :=
  ⟨test_kitchen_consistent, taken (by decide +kernel), reached (by decide +kernel), by decide +kernel,
   reached (by decide +kernel), by decide +kernel⟩
theorem test_meets_SilenceMutesTheContext :
    (asked kitchen [1#8, 0x32#8]).Takes .panel 0x32 [1#8, 0x32#8] ∧ idle.ann.current = none
    ∧ kitchen.ann.current = some ⟨9, .recordEnd, 10, false⟩
    ∧ (askedFrom kitchen [1#8, 0x32#8]).Takes .remote 0x32 [1#8, 0x32#8]
    ∧ (kitchen.table.rec? 9).any (fun r => kitchen.settings.permission r.station != 2) = true
    ∧ (kitchen.settings.withValue 0x55 2).permission 5 = 2 :=
  ⟨taken (by decide +kernel), rfl, rfl, taken (by decide +kernel), by decide +kernel, by decide +kernel⟩
theorem test_meets_SetClockSetsTheReading :
    let s := asked { kitchen with time := { kitchen.time with valid := true } } [1#8, 0x40#8, 0#8, 10#8, 0#8]
    s.table.Consistent ∧ s.LevelsFollow ∧ s.Takes .panel 0x40 [1#8, 0x40#8, 0#8, 10#8, 0#8]
    ∧ (s.table.rec? 8).any (fun r => r.waitsClock && decide (clockCountdown s.time.clock r.start.minute ≤ 600)) = true
    ∧ (askedFrom idle [1#8, 0x40#8, 23#8, 59#8, 59#8]).Takes .remote 0x40 [1#8, 0x40#8, 23#8, 59#8, 59#8] :=
  ⟨test_kitchen_consistent, .of_check (by decide +kernel), taken (by decide +kernel), by decide +kernel, taken (by decide +kernel)⟩
theorem test_meets_WindowAndItsEntries :
    (asked idle [1#8, 0x41#8, 1#8, 48#8]).Takes .panel 0x41 [1#8, 0x41#8, 1#8, 48#8]
    ∧ field [1#8, 0x41#8, 1#8, 48#8] 2 1 = 1 ∧ field [1#8, 0x41#8, 1#8, 48#8] 3 1 = 48
    ∧ (asked idle [1#8, 0x41#8, 48#8, 48#8]).Takes .panel 0x41 [1#8, 0x41#8, 48#8, 48#8]
    ∧ { idle.panel with frame := .window none, cursor := 48 }.frame = .window none ∧ idle.held = false
    ∧ { kitchen.snap with entries := snapshotOf kitchen.table 599 }.entries = snapshotOf kitchen.table 599
    ∧ kitchen.table.rec? 48 = none ∧ kitchen.table.rec? 1 = some (cooking 0) :=
  ⟨taken (by decide +kernel), by decide +kernel, by decide +kernel, taken (by decide +kernel), rfl, rfl, rfl,
   by decide +kernel, by decide +kernel⟩
theorem test_meets_SetItemAndGrantReplaceSettings :
    (⟨0x30, 1000, 7200, 10, 3000⟩ : Config.Item) ∈ Config.items ∧ idle.settings.values.length = 29
    ∧ (asked idle [1#8, 0x50#8, 0x30#8, 0#8, 0xE8#8, 3#8, 0#8, 0#8]).Takes .panel 0x50 [1#8, 0x50#8, 0x30#8, 0#8, 0xE8#8, 3#8, 0#8, 0#8]
    ∧ field [1#8, 0x50#8, 0x30#8, 0#8, 0xE8#8, 3#8, 0#8, 0#8] 4 4 = 1000
    ∧ (⟨0x31, 0, 7200, 10, 1500⟩ : Config.Item) ∈ Config.items ∧ field [1#8, 0x50#8, 0x31#8, 0#8, 0xB8#8, 0x0B#8, 0#8, 0#8] 4 4 = 3000
    ∧ idle.settings.value 0x30 = 3000 ∧ idle.settings.storing = false ∧ (storing 3).settings.storing = true
    ∧ (asked idle [1#8, 0x60#8, 7#8, 2#8]).Takes .panel 0x60 [1#8, 0x60#8, 7#8, 2#8] :=
  ⟨by decide +kernel, by decide +kernel, taken (by decide +kernel), by decide +kernel, by decide +kernel, by decide +kernel,
   by decide +kernel, by decide +kernel, by decide +kernel, taken (by decide +kernel)⟩
theorem test_meets_SetItemAndGrantReplaceSettings_priority :
    let silence : List Byte := [1#8, 0x50#8, 0x41#8, 0#8, 0#8, 0#8, 0#8, 0#8]
    (asked kitchen silence).Takes .panel 0x50 silence ∧ (⟨0x41, 0, 15, 1, 10⟩ : Config.Item) ∈ Config.items
    ∧ field silence 2 2 = 0x41 ∧ field silence 4 4 = 0 ∧ kitchen.settings.value 0x41 = 10
    ∧ kitchen.settings.storing = false :=
  ⟨taken (by decide +kernel), by decide +kernel⟩
/-- The oven's permission is FULL; its REMOTE-origin ARMED record of slot 14 has one that waits on it in its set, slot 15, and one outside,
slot 16. -/
def lowering : State :=
  { kitchen with
    settings := kitchen.settings.withValue 0x56 2
    table := (kitchen.table.put 15 (some { waiting 6 14 0 with origin := .remote })).put 16 (some (waiting 2 14 5)) }

theorem test_meets_PermissionLoweringRetires :
    let grant : List Byte := [1#8, 0x60#8, 6#8, 1#8]
    let item : List Byte := [1#8, 0x50#8, 0x56#8, 0#8, 0#8, 0#8, 0#8, 0#8]
    lowering.table.Consistent ∧ (asked lowering grant).Takes .panel 0x60 grant ∧ (asked lowering item).Takes .panel 0x50 item
    ∧ field item 2 2 = 0x50 + 6 ∧ field item 4 4 = 0 ∧ field grant 2 1 = 6 ∧ field grant 3 1 = 1
    ∧ lowering.settings.storing = false ∧ lowering.settings.permission 6 = 2
    ∧ (lowering.table.rec? 14).any (fun r => r.station == 6 && r.origin == .remote && r.state == .armed) = true
    ∧ lowering.table.rec? 15 = some { waiting 6 14 0 with origin := .remote } ∧ lowering.table.rec? 16 = some (waiting 2 14 5)
    ∧ (waiting 2 14 5).holdsLink = true ∧ lowering.table.rec? 48 = none :=
  ⟨.of_check (by decide +kernel), taken (by decide +kernel), taken (by decide +kernel), by decide +kernel⟩
theorem test_meets_StoreWritesSevenPages :
    (asked idle [1#8, 0x52#8]).Takes .panel 0x52 [1#8, 0x52#8] ∧ idle.settings.storing = false
    ∧ (storing 0).settings.store = .inProgress 0 ∧ (storing 6).settings.store = .inProgress 6
    ∧ (storing 5).settings.image.length = 178 ∧ Memory.wf (storing 6).memory :=
  ⟨taken (by decide +kernel), by decide +kernel, rfl, rfl, by decide +kernel, by decide⟩
theorem test_meets_SoftResetClearsTheBlocks : (asked kitchen [1#8, 0x61#8]).Takes .panel 0x61 [1#8, 0x61#8] :=
  taken (by decide +kernel)
theorem test_meets_StationResetEmptiesTheStation :
    kitchen.table.Consistent ∧ (asked kitchen [1#8, 0x62#8, 0#8]).Takes .panel 0x62 [1#8, 0x62#8, 0#8] ∧ kitchen.table.head 0 ≠ 0
    ∧ (waiting 1 1 0).holdsLink = true ∧ (kitchen.table.rec? 1).any (fun q => decide (q.station = 0)) = true
    ∧ (asked kitchen [1#8, 0x62#8, 7#8]).Takes .panel 0x62 [1#8, 0x62#8, 7#8] :=
  ⟨test_kitchen_consistent, taken (by decide +kernel), by decide +kernel, by decide +kernel, by decide +kernel,
   taken (by decide +kernel)⟩

/-! ### Hypotheses met: ports -/

/-- The panel port in a frame. -/
def framed (f : Frame) : State := { idle with panel := { idle.panel with frame := f } }

/-- The remote port in a transaction. -/
def transacting (x : Transaction) : State := { idle with remote := { idle.remote with transaction := x } }

theorem test_meets_PanelFramesAreTaken :
    idle.held = false ∧ idle.panel.frame = .idle ∧ (framed .untyped).panel.frame = .untyped ∧ (0#8 : Byte) ∉ [1#8, 2#8, 3#8, 4#8]
    ∧ (5#8 : Byte) ∉ [1#8, 2#8, 3#8, 4#8] ∧ (framed (.command [])).panel.frame = .command []
    ∧ (framed .unknown).panel.frame = .unknown
    ∧ (List.replicate 64 (0#8 : Byte)).length ≤ 64 ∧ 64 < (List.replicate 65 (0#8 : Byte)).length
    ∧ (List.replicate 7 ([] : List Byte)).length < 8 ∧ 8 ≤ (List.replicate 8 ([] : List Byte)).length := by decide +kernel
theorem test_meets_PanelReadsAreServed :
    (framed (.fetch none)).panel.frame = .fetch none ∧ (framed (.fetch none)).panel.replies = []
    ∧ { idle.panel with replies := [⟨1#8, .ok, []⟩] }.replies = ⟨1#8, .ok, []⟩ :: []
    ∧ (framed (.fetch (some [2#8, 1#8, 0#8]))).panel.frame = .fetch (some [2#8, 1#8, 0#8])
    ∧ [2#8, 1#8, (0#8 : Byte)][2]? = some 0#8 ∧ [2#8, 1#8, (0#8 : Byte)].length ≤ 3
    ∧ (framed (.status (some (0#8, 255#8)))).panel.frame = .status (some (0#8, 255#8))
    ∧ (framed (.window (some [7#8]))).panel.frame = .window (some [7#8])
    ∧ (framed (.status none)).panel.frame = .status none ∧ (framed (.window none)).panel.frame = .window none := by decide +kernel
theorem test_meets_RemoteTransactionsAreServed :
    idle.held = false ∧ idle.remote.transaction = .idle ∧ (0x53#7 : BitVec 7) ≠ idle.remote.address ∧ idle.remote.replies = []
    ∧ (transacting .addressed).remote.transaction = .addressed ∧ (transacting .addressed).remote.commands.length < 4
    ∧ 4 ≤ (List.replicate 4 ([] : List Byte)).length ∧ (transacting (.collecting 1#8)).remote.transaction = .collecting 1#8
    ∧ (List.replicate 63 (0#8 : Byte)).length ≤ 63 ∧ (transacting .dropped).remote.transaction = .dropped
    ∧ (transacting (.reading [0#8])).remote.transaction = .reading [0#8] ∧ [(0#8 : Byte)].length ≤ 1
    ∧ { idle.remote with replies := [⟨1#8, .ok, []⟩] }.replies = ⟨1#8, .ok, []⟩ :: [] := by decide +kernel
end Sys2Proof.Tests
end

section
/-! SUPPORT. The burner level that a head gives, and what following a head does to the table and to the burners (R11, R12). -/

namespace Sys2Proof.Machine

/-! ### One record changes -/

@[simp] theorem Table.modify_heads (t : Table) (k f) : (t.modify k f).heads = t.heads := by
  unfold Table.modify; split <;> simp
@[simp] theorem Table.modify_queues (t : Table) (k f) : (t.modify k f).queues = t.queues := by
  unfold Table.modify; split <;> simp

/-- A change of a slot's record is known by what it does to that record. -/
theorem Table.modify_congr {t : Table} {k : Nat} {r : Record} {f g : Record → Record} (hr : t.rec? k = some r)
    (h : f r = g r) : t.modify k f = t.modify k g := by
  simp only [Table.modify, hr, h]

/-- Two changes of a slot's record are one. -/
theorem Table.modify_modify (t : Table) (k : Nat) (f g : Record → Record) :
    (t.modify k f).modify k g = t.modify k (fun r => g (f r)) := by
  cases hr : t.rec? k with
  | none => simp [Table.modify, hr]
  | some r =>
    obtain ⟨hk, hlen⟩ := Table.rec?_some_pos hr
    simp only [Table.modify, hr, Table.rec?_put_same t _ hk hlen]
    simp [Table.put, Nat.pos_iff_ne_zero.mp hk]

@[simp] theorem State.modify_table (s : State) (k f) : (s.modify k f).table = s.table.modify k f := rfl
@[simp] theorem State.modify_burners (s : State) (k f) : (s.modify k f).burners = s.burners := rfl
@[simp] theorem State.modify_burner (s : State) (k f st) : (s.modify k f).burner st = s.burner st := rfl
@[simp] theorem State.modify_ann (s : State) (k f) : (s.modify k f).ann = s.ann := rfl
@[simp] theorem State.modify_settings (s : State) (k f) : (s.modify k f).settings = s.settings := rfl

theorem State.modify_modify (s : State) (k : Nat) (f g : Record → Record) :
    (s.modify k f).modify k g = s.modify k (fun r => g (f r)) :=
  congrArg s.withTable (Table.modify_modify s.table k f g)

theorem State.modify_congr {s : State} {k : Nat} {r : Record} {f g : Record → Record} (hr : s.table.rec? k = some r)
    (h : f r = g r) : s.modify k f = s.modify k g := by
  rw [State.modify, Table.modify_congr hr h]; rfl

/-- A record that controls its station stands in the slot of the station's head. -/
theorem Table.Consistent.head_of_isHead {t : Table} (hc : t.Consistent) {k : Nat} {r : Record} (hr : t.rec? k = some r)
    (h : r.isHead = true) : t.head r.station = k :=
  (hc.head_iff k r hr).mp h

/-! ### The level a head gives (R11) -/

/-- A head that burns: RUNNING, or ENDED with the keep mark and no flame-out. -/
def Record.lit (r : Record) : Bool := r.state == .running || (r.state == .ended && r.keep && !r.flameOut)

/-- The commanded level that a head record gives its station. -/
def Record.givenLevel (r : Record) : Nat := if r.lit then (r.shownStage?).elim 0 Stage.level else 0

theorem Record.lit_iff {r : Record} :
    r.lit = true ↔ r.state = .running ∨ (r.state = .ended ∧ r.keep = true ∧ r.flameOut = false) := by
  simp [Record.lit, and_assoc]

theorem Record.givenLevel_dark {r : Record} (h : r.lit = false) : r.givenLevel = 0 := by
  simp [Record.givenLevel, h]

theorem Record.givenLevel_lit {r : Record} {g : Stage} (h : r.lit = true) (hg : r.shownStage? = some g) :
    r.givenLevel = g.level := by
  simp [Record.givenLevel, h, hg]

/-- A station's commanded level is the one its head record gives. -/
theorem Table.levelOf_eq (t : Table) (st : Nat) : t.levelOf st = (t.headRec? st).elim 0 Record.givenLevel := by
  unfold Table.levelOf
  split
  · next h => simp [h]
  · next r h =>
    rw [h, Option.elim_some, Record.givenLevel]
    cases hs : r.state with
    | running => simp [Record.lit, hs]
    | ended => simp [Record.lit, hs]
    | armed | queued | paused | held => simp [Record.lit, hs]

/-- A change of the head record changes the level as it changes the record. -/
theorem Table.levelOf_modify_head {t : Table} {st : Nat} {r : Record} (h : t.headRec? st = some r) (f : Record → Record) :
    (t.modify (t.head st) f).levelOf st = (f r).givenLevel := by
  have hr : (t.modify (t.head st) f).headRec? st = some (f r) := by
    rw [Table.headRec?, Table.head_modify, Table.rec?_modify, if_pos rfl]
    exact congrArg (Option.map f) h
  rw [Table.levelOf_eq, hr, Option.elim_some]

/-- A change of another record leaves the level alone. -/
theorem Table.levelOf_modify_other {t : Table} {st k : Nat} (h : t.head st ≠ k) (f : Record → Record) :
    (t.modify k f).levelOf st = t.levelOf st := by
  have hr : (t.modify k f).headRec? st = t.headRec? st := by
    rw [Table.headRec?, Table.head_modify, Table.rec?_modify, if_neg h]; rfl
  rw [Table.levelOf_eq, Table.levelOf_eq, hr]

/-! ### Following a head (R11, R12) -/

/-- Following the head of the station starts a grace on it: the level becomes, or stays, non-zero for a record it did not come
from before (R12). -/
def State.lights (s : State) (st : Nat) : Prop :=
  isGas st = true ∧ s.table.levelOf st ≠ 0 ∧ ((s.burner st).level = 0 ∨ (s.burner st).source ≠ s.table.head st)

theorem follow_electric {s : State} {st : Nat} (h : isGas st = false) : s.follow st = s := by
  rw [State.follow, if_neg (by simp [h])]

theorem follow_table_lights {s : State} {st : Nat} (h : s.lights st) :
    (s.follow st).table = s.table.modify (s.table.head st) (Record.startGrace s.settings) := by
  obtain ⟨hg, hl⟩ := h
  simp only [State.follow, if_pos hg, ne_eq]
  rw [if_pos hl]; rfl

theorem follow_table_steady {s : State} {st : Nat} (h : ¬ s.lights st) : (s.follow st).table = s.table := by
  cases hg : isGas st
  · rw [follow_electric hg]
  · simp only [State.follow, if_pos hg, ne_eq]
    rw [if_neg (fun hl => h ⟨hg, hl⟩)]; rfl

/-- The burner of a gas station takes the level of its head and the head's slot. -/
theorem follow_burners {s : State} {st : Nat} (h : isGas st = true) :
    (s.follow st).burners = s.burners.set st
      { level := s.table.levelOf st, source := if s.table.levelOf st = 0 then 0 else s.table.head st } := by
  simp only [State.follow, if_pos h]
  split <;> rfl

theorem follow_level {s : State} {st : Nat} (h : isGas st = true) (hb : st < s.burners.length) :
    ((s.follow st).burner st).level = s.table.levelOf st := by
  simp [State.burner, follow_burners h, hb]

theorem follow_burner_other (s : State) {st f : Nat} (h : f ≠ st) : (s.follow st).burner f = s.burner f := by
  cases hg : isGas st
  · rw [follow_electric hg]
  · simp [State.burner, follow_burners hg, List.getElem?_set_ne (Ne.symm h)]

/-- Following a head changes the table and the burners alone. -/
theorem follow_eq (s : State) (st : Nat) :
    s.follow st = { s with table := (s.follow st).table, burners := (s.follow st).burners } := by
  unfold State.follow
  split
  · dsimp only; split <;> rfl
  · rfl

theorem follow_ann (s : State) (st : Nat) : (s.follow st).ann = s.ann := by rw [follow_eq]

/-! ### A record changed in place, its station followed -/

/-- Where the levels followed the heads before, a change of one record lights a burner only if the burner was dark. -/
theorem lights_modify_iff {s : State} (hl : s.LevelsFollow) (k : Nat) (f : Record → Record) (st : Nat) :
    (s.modify k f).lights st ↔
      isGas st = true ∧ (s.table.modify k f).levelOf st ≠ 0 ∧ (s.burner st).level = 0 := by
  simp only [State.lights, State.modify_table, State.modify_burner, Table.head_modify]
  refine and_congr_right fun hg => and_congr_right fun _ => or_iff_left_of_imp fun hs => ?_
  by_contra hn
  exact hs (hl.source st (by simpa [isGas] using hg) hn)

/-- A change of a record that is not the head leaves the station's heat as it was. -/
theorem modify_follow_table_other {s : State} (hl : s.LevelsFollow) {k st : Nat} (h : s.table.head st ≠ k)
    (f : Record → Record) : ((s.modify k f).follow st).table = s.table.modify k f := by
  refine follow_table_steady fun hn => ?_
  obtain ⟨hg, hlevel, hdark⟩ := (lights_modify_iff hl k f st).mp hn
  rw [Table.levelOf_modify_other h, ← hl.level st (by simpa [isGas] using hg)] at hlevel
  exact hlevel hdark

/-- The head record after it has been changed and followed: a grace starts where it lights a dark burner (R12). -/
theorem rec?_modify_follow_head {s : State} (hl : s.LevelsFollow) {k st : Nat} {r : Record} (hr : s.table.rec? k = some r)
    (hk : s.table.head st = k) (f : Record → Record) :
    ((s.modify k f).follow st).table.rec? k = some
      (if isGas st = true ∧ (f r).givenLevel ≠ 0 ∧ (s.burner st).level = 0 then (f r).startGrace s.settings else f r) := by
  subst hk
  have hlights := lights_modify_iff hl (s.table.head st) f st
  rw [Table.levelOf_modify_head hr] at hlights
  split
  · next h =>
    rw [follow_table_lights (hlights.mpr h)]
    simp [Table.rec?_modify, hr]
  · next h =>
    rw [follow_table_steady (mt hlights.mp h)]
    simp [Table.rec?_modify, hr]

/-- Every other record is left alone, whether or not the changed one is the head. -/
theorem rec?_modify_follow_other {s : State} (hl : s.LevelsFollow) {k j : Nat} (hj : j ≠ k) (f : Record → Record)
    (st : Nat) : ((s.modify k f).follow st).table.rec? j = s.table.rec? j := by
  by_cases hk : s.table.head st = k
  · by_cases h : (s.modify k f).lights st
    · rw [follow_table_lights h]; simp [Table.rec?_modify, hk, hj]
    · rw [follow_table_steady h]; simp [Table.rec?_modify, hj]
  · rw [modify_follow_table_other hl hk, Table.rec?_modify, if_neg hj]

/-- The burner of a gas station after its head record has been changed and followed. -/
theorem level_modify_follow_head {s : State} {k st : Nat} {r : Record} (hr : s.table.rec? k = some r)
    (hk : s.table.head st = k) (hg : isGas st = true) (hb : st < s.burners.length) (f : Record → Record) :
    (((s.modify k f).follow st).burner st).level = (f r).givenLevel := by
  subst hk
  rw [follow_level hg (by simpa using hb), State.modify_table, Table.levelOf_modify_head hr]

/-- Where the levels follow the heads, the burner has the level that its head record gives. -/
theorem State.LevelsFollow.level_of_head {s : State} (hl : s.LevelsFollow) {k st : Nat} {r : Record}
    (hr : s.table.rec? k = some r) (hk : s.table.head st = k) (hg : isGas st = true) :
    (s.burner st).level = r.givenLevel := by
  subst hk
  rw [hl.level st (by simpa [isGas] using hg), Table.levelOf_eq, Table.headRec?, hr, Option.elim_some]

/-! ### The same for the work of a command -/

theorem takeCommand_levelsFollow {s : State} (h : s.LevelsFollow) (p : Port) : (s.takeCommand p).LevelsFollow :=
  ⟨by simpa using h.six, by simpa using h.level, by simpa using h.source⟩

/-- Answering commutes with the change of a record and of its station's burner. -/
theorem reply_modify_follow (s : State) (k f st p x) :
    ((s.modify k f).follow st).reply p x = { s.reply p x with
      table := ((s.modify k f).follow st).table, burners := ((s.modify k f).follow st).burners } := by
  rw [follow_eq]; cases p <;> rfl

end Sys2Proof.Machine
end

section
/-! PROOFS. The flame judgement of a gas station (R13, R14): O29, O30. -/

namespace Sys2Proof.Machine

/-! ### The cases of a judgement -/

/-- A station whose burner is not lit is not judged (R7). -/
theorem judgeStation_dark {s : State} {st : Nat} (h : (s.burner st).level = 0) : s.judgeStation st = s := by
  simp [State.judgeStation, State.judgedHead?, h]

/-- A station without a head is not judged. -/
theorem judgeStation_no_head {s : State} {st : Nat} (h : s.table.headRec? st = none) : s.judgeStation st = s := by
  simp [State.judgeStation, State.judgedHead?, h]

/-- A judgement that finds no loss writes the judged head record back. -/
theorem judgeStation_no_loss {s : State} {st : Nat} {r : Record} (hl : (s.burner st).level ≠ 0)
    (hr : s.table.headRec? st = some r) (h : r.flameLostAt (s.time.lines.flm.getLsbD st) = false) :
    s.judgeStation st
      = s.modify (s.table.head st) (fun r => r.judged (s.time.lines.flm.getLsbD st)) := by
  simp [State.judgeStation, State.judgedHead?, hl, hr, h]

/-- A judgement that finds a loss puts the flame out and raises FLAME_LOST, as one event of the Alert Unit. -/
theorem judgeStation_loss {s : State} {st : Nat} {r : Record} (hl : (s.burner st).level ≠ 0)
    (hr : s.table.headRec? st = some r) (h : r.flameLostAt (s.time.lines.flm.getLsbD st) = true) :
    s.judgeStation st
      = settleFrom s (((s.modify (s.table.head st) Record.loseFlame).raise (s.table.head st) .flameLost).follow st) := by
  simp [State.judgeStation, State.judgedHead?, hl, hr, h]

/-- A loss needs a spent grace, a low flame line and four absent samples before (R13). -/
theorem Record.flameLostAt_iff {r : Record} {present : Bool} :
    r.flameLostAt present = true ↔ r.grace = 0 ∧ present = false ∧ 4 ≤ r.absent := by
  simp [Record.flameLostAt, and_assoc]

/-- The judged record is known by what the judgement does to the head. -/
theorem judgeStation_writes {s : State} {st : Nat} {r : Record} {f : Record → Record} (hl : (s.burner st).level ≠ 0)
    (hr : s.table.headRec? st = some r) (h : r.flameLostAt (s.time.lines.flm.getLsbD st) = false)
    (hf : r.judged (s.time.lines.flm.getLsbD st) = f r) : s.judgeStation st = s.modify (s.table.head st) f := by
  rw [judgeStation_no_loss hl hr h]
  exact State.modify_congr hr hf

/-- Settles O29: dark, in grace, flame present, flame absent. -/
theorem flameIsJudged : Obligations.FlameIsJudged := by
  refine ⟨fun s st r hr => ⟨judgeStation_dark, fun hl hg => ?_, fun hl hg hp => ?_, fun hl hg hp ha => ?_⟩,
    fun s st => ⟨rfl, judgeStation_no_head⟩⟩
  · have hno : r.flameLostAt (s.time.lines.flm.getLsbD st) = false := by
      simp [Record.flameLostAt, Nat.pos_iff_ne_zero.mp hg]
    exact judgeStation_writes hl hr hno (if_pos hg)
  · have hno : r.flameLostAt (s.time.lines.flm.getLsbD st) = false := by simp [Record.flameLostAt, hp]
    exact judgeStation_writes hl hr hno (by simp [Record.judged, hg, hp])
  · have hno : r.flameLostAt (s.time.lines.flm.getLsbD st) = false := by
      simp only [Record.flameLostAt, Bool.and_eq_false_iff, decide_eq_false_iff_not]; omega
    exact judgeStation_writes hl hr hno (by simp [Record.judged, hg, hp])

/-! ### The Alert Unit's part of an event (R121) -/

/-- An event that left the annunciator alone is taken by the Alert Unit as one event. -/
theorem settleFrom_annTaken {s t : State} (h : t.ann = s.ann) : s.AnnTaken (settleFrom s t) := by
  unfold settleFrom
  split
  · next hp => exact ⟨fun _ => h, fun hn => absurd hp hn⟩
  · next hp => exact ⟨fun he => absurd he hp, fun _ => by simp only [State.settle, State.withAnn, h]⟩

/-- The Alert Unit's part of an event changes the annunciator alone. -/
theorem settleFrom_eq (s t : State) : settleFrom s t = { t with ann := (settleFrom s t).ann } := by
  unfold settleFrom; split <;> rfl

/-! ### The loss -/

/-- A record that lost its flame gives no level (R14). -/
theorem Record.givenLevel_loseFlame (r : Record) : (r.loseFlame.raise .flameLost).givenLevel = 0 := by
  refine Record.givenLevel_dark ?_
  cases hs : r.state <;> simp [Record.lit, Record.loseFlame, Record.raise, hs]

/-- A judgement taken at its share of the boundary. -/
theorem exec_flameLoss {s : State} {st : Nat} (ha : s.awaits (.judge st) = true) (h : s.losesFlame st = true) :
    exec (.flameLoss st) s = .next ((s.withTodo (s.todo.filter (fun w => w != .judge st))).judgeStation st) := by
  show Host.Outcome.next (if s.losesFlame st then s.take (.judge st) else s) = _
  rw [if_pos h, State.take, if_pos ha]
  exact congrArg _ (takeOne_awaited ha)

/-- Settles O30: the head's new record gives no level, so no grace starts and the burner goes dark. -/
theorem flameLossIsTaken : Obligations.FlameLossIsTaken := by
  intro s st r hst _ ha hl hr hstate hgrace habsent hflm
  let s₀ := s.withTodo (s.todo.filter (fun w => w != .judge st))
  let lost := (s₀.modify (s.table.head st) (fun r => r.loseFlame.raise .flameLost)).follow st
  have hlost : r.flameLostAt (s.time.lines.flm.getLsbD st) = true :=
    Record.flameLostAt_iff.mpr ⟨hgrace, hflm, by omega⟩
  have hexec : exec (.flameLoss st) s = .next (settleFrom s₀ lost) := by
    rw [exec_flameLoss ha (by simp [State.losesFlame, State.judgedHead?, hl, hr, hlost])]
    have hjudge := judgeStation_loss (s := s₀) hl hr hlost
    rw [State.raise, State.modify_modify] at hjudge
    exact congrArg _ hjudge
  have hdark : (s₀.table.modify (s₀.table.head st) (fun r => r.loseFlame.raise .flameLost)).levelOf st = 0 :=
    (Table.levelOf_modify_head (t := s₀.table) hr _).trans r.givenLevel_loseFlame
  have htable : lost.table = s.table.modify (s.table.head st) (fun r => r.loseFlame.raise .flameLost) :=
    follow_table_steady fun h => h.2.1 hdark
  have hburner : st < s.burners.length := by
    by_contra hn
    exact hl (by simp [State.burner, List.getElem?_eq_none (Nat.not_lt.mp hn)])
  have hrec : lost.table.rec? (s.table.head st) = some (r.loseFlame.raise .flameLost) := by
    rw [htable, Table.rec?_modify, if_pos rfl]
    exact congrArg (Option.map _) hr
  have hframe := settleFrom_eq s₀ lost
  refine ⟨settleFrom s₀ lost, hexec, ?_⟩
  rw [hframe]
  have hlevel : (lost.burner st).level = 0 :=
    (follow_level (s := s₀.modify _ _) (by simpa [isGas] using hst) hburner).trans hdark
  refine ⟨hrec.trans ?_, hlevel, ?_, fun j hj => ?_, ?_, ?_, fun f hf => follow_burner_other _ hf, ?_, ?_⟩
  · rcases hstate with h | h <;> simp [Record.raise, Record.loseFlame, AlertKind.mask, AlertKind.num, h, hgrace]
  · simp [hrec, Record.hasAlert, Record.raise, AlertKind.mask, AlertKind.num]
  · exact (congrArg (Table.rec? · j) htable).trans ((Table.rec?_modify _ _ _ _).trans (if_neg hj))
  · exact (congrArg Table.heads htable).trans (Table.modify_heads _ _ _)
  · exact (congrArg Table.queues htable).trans (Table.modify_queues _ _ _)
  · simp only [lost]; rw [follow_eq]; rfl
  · rw [← hframe]
    exact settleFrom_annTaken (s := s₀) (follow_ann _ _)

end Sys2Proof.Machine
end

section
/-! PROOFS. RESUME of a record (R16, R12, R152): O44. -/

namespace Sys2Proof.Machine

theorem Record.resumable_iff {r : Record} :
    r.resumable = true ↔ r.state = .paused ∨ r.state = .held ∨ (r.state = .ended ∧ r.keep = true ∧ r.flameOut = true) := by
  simp [Record.resumable, or_assoc, and_assoc]

/-- What a RESUME acts on controls its station and does not burn. -/
theorem Record.resumable_head_dark {r : Record} (h : r.resumable = true) : r.isHead = true ∧ r.lit = false := by
  rcases Record.resumable_iff.mp h with h | h | ⟨h, hk, hf⟩
  · simp [Record.isHead, Record.lit, h]
  · simp [Record.isHead, Record.lit, h]
  · simp [Record.isHead, Record.lit, h, hk, hf]

/-- A resumed record runs, or stays ENDED, without a flame-out mark; all else of it is kept. -/
theorem Record.resumeAt_eq (r : Record) :
    r.resumeAt = { r with state := if r.state = .ended then .ended else .running, flameOut := false } := by
  cases hs : r.state <;> simp [Record.resumeAt, hs]

/-- A resumed record burns, at the level it stood for before. -/
theorem Record.givenLevel_resumeAt {r : Record} (h : r.resumable = true) :
    r.resumeAt.givenLevel = (r.shownStage?).elim 0 Stage.level := by
  have hlit : r.resumeAt.lit = true := by
    rw [Record.resumeAt_eq]
    rcases Record.resumable_iff.mp h with h | h | ⟨h, hk, -⟩ <;> simp [Record.lit, *]
  have hshown : r.resumeAt.shownStage? = r.shownStage? := by
    rw [Record.resumeAt_eq]
    rcases Record.resumable_iff.mp h with h | h | ⟨h, -⟩ <;>
      simp [Record.shownStage?, Record.shownIndex, Record.stageAt?, h]
  rw [Record.givenLevel, if_pos hlit, hshown]

/-- The work of an accepted RESUME. -/
theorem resumeBody_accepts {s : State} {p : Port} {bytes : List Byte} {r : Record} (h : s.Reaches p bytes r)
    (hg : p = .remote → isGas r.station = false) (hr : r.resumable = true) :
    resumeBody p bytes (s.takeCommand p)
      = .ok (((s.takeCommand p).modify (field bytes 2 1) Record.resumeAt).follow r.station,
          (((s.takeCommand p).modify (field bytes 2 1) Record.resumeAt).follow r.station).stateByteOf (field bytes 2 1)) := by
  have hgas : p = .remote → isGas r.station = true → true = false := fun hp hy => by simp [hg hp] at hy
  rw [resumeBody, withRecord_reaches h, allowed_reaches h true hgas, inState, if_pos hr]

/-- Settles O44: the dark burner of a resumable head is lit by its own level, so a grace starts. -/
theorem resumeRestoresTheRecord : Obligations.ResumeRestoresTheRecord := by
  intro s p bytes r k hc hl htakes hreach hgate hstate
  have hres : r.resumable = true := Record.resumable_iff.mpr hstate
  obtain ⟨hhead, hdark⟩ := Record.resumable_head_dark hres
  let u := s.takeCommand p
  let t := (u.modify k Record.resumeAt).follow r.station
  have hu : u.LevelsFollow := takeCommand_levelsFollow hl p
  have hrec : u.table.rec? k = some r := by simpa [u] using hreach.record
  have hk : u.table.head r.station = k := by simpa [u] using hc.head_of_isHead hreach.record hhead
  have hexec : exec .resume s = .next (t.reply p { tag := tagOf bytes, code := .ok, data := t.stateByteOf k }) :=
    execute_accepts htakes (resumeBody_accepts hreach hgate hres) ((follow_ann _ _).trans (takeCommand_ann s p))
  have hq := rec?_modify_follow_head hu hrec hk Record.resumeAt
  have hlevel : ∀ g, isGas r.station = true → r.shownStage? = some g → r.resumeAt.givenLevel = g.level :=
    fun g _ hs => by rw [Record.givenLevel_resumeAt hres, hs, Option.elim_some]
  refine ⟨_, _, hexec, (by simpa [t] using hq), ?_, ?_, fun j hj => ?_, fun g hg hs hne => ⟨?_, ?_⟩, fun hg => ?_, ?_,
    fun f hf => ?_⟩
  · split <;> simp only [Record.resumeAt_eq, Record.startGrace]
  · split <;> simp only [Record.resumeAt_eq, Record.startGrace]
  · simpa [t, u] using rec?_modify_follow_other hu hj Record.resumeAt r.station
  · have hb : r.station < u.burners.length := by
      rw [hu.six]; simpa [isGas] using hg
    simpa [t, hlevel g hg hs] using level_modify_follow_head hrec hk hg hb Record.resumeAt
  · have hlit : isGas r.station = true ∧ r.resumeAt.givenLevel ≠ 0 ∧ (u.burner r.station).level = 0 :=
      ⟨hg, by rwa [hlevel g hg hs], (hu.level_of_head hrec hk hg).trans (Record.givenLevel_dark hdark)⟩
    rw [if_pos hlit]
    exact ⟨by simp [Record.startGrace, u], rfl⟩
  · rw [if_neg (by simp [hg])]
    rw [Record.resumeAt_eq]
    exact ⟨rfl, rfl⟩
  · rw [reply_modify_follow]; rfl
  · simpa [t, u] using follow_burner_other (u.modify k Record.resumeAt) hf

end Sys2Proof.Machine
end

section
/-! PROOFS. SET LEVEL and the level lines (R59, R12, R42, R10): O46. -/

namespace Sys2Proof.Machine

/-! ### The stage and the record as a SET LEVEL leaves them -/

/-- The record with a new level in the stage it stands for (R59). -/
def Record.setLevel (v : Nat) (r : Record) : Record :=
  { r with stages := r.stages.modify (r.shownIndex - 1) (Stage.withLevel r.station v) }

/-- The stage that a SET LEVEL writes, by the kind of its station: burner, grill, oven (R42, R59). -/
theorem Stage.withLevel_eq (st v : Nat) (g : Stage) :
    g.withLevel st v = if st < 6 then { g with level := min 9 v }
      else if st = 7 then { g with level := min 4 (v % 256), full := decide (256 ≤ v) }
      else { g with setpoint := some (5 * ((max 30 (min 300 v) + 2) / 5)) } := by
  have hfull : (v / 256 != 0) = decide (256 ≤ v) := by
    rw [Bool.eq_iff_iff]; simp only [bne_iff_ne, decide_eq_true_eq]; omega
  unfold Stage.withLevel
  by_cases hg : st < 6
  · simp [isGas, clampLevel, hg]
  · by_cases hr : st = 7
    · subst hr
      simp [isGas, clampLevel, hfull, Config.OV]
    · simp [isGas, hg, hr, clampSetpoint]

/-- The value that the reply gives, by the kind of the station (R183; log 16). -/
theorem Stage.storedValue_eq (st : Nat) (g : Stage) :
    g.storedValue st = if st < 6 then g.level else if st = 7 then g.level + 256 * flag g.full else g.setpoint.getD 0 := by
  simp [Stage.storedValue, isGas]

/-- The stage in force, or about to be. -/
theorem Record.shownIndex_eq (r : Record) :
    r.shownIndex = if r.state = .armed ∨ r.state = .queued then 1
      else if r.state = .ended then r.stages.length else r.stage := by
  cases hs : r.state <;> simp [Record.shownIndex, hs]

theorem Record.stageAt?_some {r : Record} {i : Nat} {g : Stage} (h : r.stageAt? i = some g) : r.stages[i - 1]? = some g := by
  unfold Record.stageAt? at h
  split at h
  · exact absurd h (by simp)
  · exact h

/-- The stage shown is replaced, and nothing else of the record. -/
theorem Record.setLevel_eq {r : Record} {g : Stage} (v : Nat) (hg : r.shownStage? = some g) :
    r.setLevel v = { r with stages := r.stages.set (r.shownIndex - 1) (g.withLevel r.station v) } := by
  rw [Record.setLevel, List.modify_eq_set_getElem?, Record.stageAt?_some hg]; rfl

/-- The record then stands for the new stage. -/
theorem Record.shownStage?_setLevel {r : Record} {g : Stage} (v : Nat) (hg : r.shownStage? = some g) :
    (r.setLevel v).shownStage? = some (g.withLevel r.station v) := by
  have hi : (r.setLevel v).shownIndex = r.shownIndex := by
    cases hs : r.state <;> simp [Record.setLevel, Record.shownIndex, hs]
  have hpos : r.shownIndex ≠ 0 := fun h0 => by simp [Record.shownStage?, Record.stageAt?, h0] at hg
  rw [Record.shownStage?, hi, Record.stageAt?, if_neg hpos]
  simp [Record.setLevel, Record.stageAt?_some hg]

/-- A head gives the new level if it burns (R11). -/
theorem Record.givenLevel_setLevel {r : Record} {g : Stage} (v : Nat) (hg : r.shownStage? = some g) :
    (r.setLevel v).givenLevel = if r.lit then (g.withLevel r.station v).level else 0 := by
  rw [Record.givenLevel, Record.shownStage?_setLevel v hg]; rfl

/-- A level above 0 is written as one above 0 on a burner. -/
theorem Stage.withLevel_level_pos {st v : Nat} (g : Stage) (h : isGas st = true) (hv : v ≠ 0) :
    (g.withLevel st v).level ≠ 0 := by
  simp only [Stage.withLevel, h, if_true, clampLevel]; omega

/-! ### The table after it -/

/-- A SET LEVEL acts on heads, and on records that wait and do not burn. -/
theorem Record.isHead_or_waits {r : Record} (h : r.levelSettable = true) :
    r.isHead = true ∨ (r.isHead = false ∧ r.lit = false) := by
  cases hs : r.state <;> simp_all [Record.levelSettable, Record.isHead, Record.lit]

/-- The record, with a grace where its new level lights a dark burner (R12). -/
theorem rec?_setLevel {s : State} (hc : s.table.Consistent) (hl : s.LevelsFollow) {k v : Nat} {r : Record} {g : Stage}
    (hr : s.table.rec? k = some r) (hset : r.levelSettable = true) (hg : r.shownStage? = some g) (hv : v ≠ 0) :
    ((s.modify k (Record.setLevel v)).follow r.station).table.rec? k = some
      (if isGas r.station = true ∧ (s.burner r.station).level = 0 ∧ r.lit = true then
        (r.setLevel v).startGrace s.settings else r.setLevel v) := by
  rcases Record.isHead_or_waits hset with hhead | ⟨hwaits, hdark⟩
  · rw [rec?_modify_follow_head hl hr (hc.head_of_isHead hr hhead)]
    refine congrArg some (if_congr (and_congr_right fun hgas => ?_) rfl rfl)
    have hpos : (r.setLevel v).givenLevel ≠ 0 ↔ r.lit = true := by
      rw [Record.givenLevel_setLevel v hg]
      cases r.lit <;> simp [Stage.withLevel_level_pos g hgas hv]
    rw [hpos, and_comm]
  · have hk : s.table.head r.station ≠ k := fun hk => by simp [(hc.head_iff k r hr).mpr hk] at hwaits
    rw [modify_follow_table_other hl hk, Table.rec?_modify, if_pos rfl, hr, if_neg (by simp [hdark])]; rfl

/-! ### The command -/

/-- The work of an accepted SET LEVEL. -/
theorem setLevelBody_accepts {s : State} {p : Port} {bytes : List Byte} {r : Record} {g : Stage}
    (h : s.Reaches p bytes r) (hv : field bytes 3 2 ≠ 0) (hgrill : r.station = 7 → field bytes 3 2 % 256 ≠ 0)
    (hgas : p = .remote → isGas r.station = true → min 9 (field bytes 3 2) ≤ g.level)
    (hset : r.levelSettable = true) (hg : r.shownStage? = some g) :
    let t := ((s.takeCommand p).modify (field bytes 2 1) (Record.setLevel (field bytes 3 2))).follow r.station
    setLevelBody p bytes (s.takeCommand p)
      = .ok (t, leBytes 2 ((g.withLevel r.station (field bytes 3 2)).storedValue r.station) ++ [byteOf r.shownIndex]) := by
  have hlimit : p = .remote → isGas r.station = true → r.levelRaises (field bytes 3 2) = false := fun hp hy => by
    have := hgas hp hy
    simp only [Record.levelRaises, hset, hg, Bool.true_and, Option.elim_some, clampLevel, hy, if_true,
      decide_eq_false_iff_not]
    omega
  have hnot : ¬ (r.station = Config.GR ∧ field bytes 3 2 % 256 = 0) := fun ⟨h7, h0⟩ => hgrill h7 h0
  intro t
  simp only [setLevelBody, if_neg hv, withRecord_reaches h, if_neg hnot, allowed_reaches h _ hlimit, inState, hset,
    if_true, hg, Option.map_some, Option.getD_some]
  rfl

/-- The duty of each level of a burner (R10). -/
theorem dutyOf_table {level : Nat} (h : level ≤ 9) :
    some (dutyOf level) = [0, 11, 22, 33, 44, 56, 67, 78, 89, 100][level]? := by
  interval_cases level <;> rfl

/-- Settles O46: the stage is written in place, and the station's burner follows. -/
theorem setLevelWritesTheStage : Obligations.SetLevelWritesTheStage := by
  refine ⟨?_, fun s st => ⟨fun h => ?_, fun hh hl h9 => ?_⟩⟩
  · intro s p bytes r i g k v hc hl htakes hreach hv hgrill hkeep hgate hi hat g'
    have hset : r.levelSettable = true := by simpa [Record.levelSettable] using hkeep
    have hindex : r.shownIndex = i := (Record.shownIndex_eq r).trans hi.symm
    have hg : r.shownStage? = some g := by rw [Record.shownStage?, hindex, hat]
    have hg' : g.withLevel r.station v = g' := Stage.withLevel_eq r.station v g
    have hlit : r.lit = true ↔ r.state = .running ∨ (r.state = .ended ∧ r.flameOut = false) := by
      rw [Record.lit_iff]
      exact or_congr_right (and_congr_right fun he => and_iff_right (hkeep.resolve_left (not_not_intro he)))
    let u := s.takeCommand p
    have huc : u.table.Consistent := by simpa [u] using hc
    have hu : u.LevelsFollow := takeCommand_levelsFollow hl p
    have hrec : u.table.rec? k = some r := by simpa [u] using hreach.record
    have hexec := execute_accepts htakes (setLevelBody_accepts hreach hv hgrill hgate hset hg)
      ((follow_ann _ _).trans (takeCommand_ann s p))
    have hq := rec?_setLevel huc hu hrec hset hg hv
    refine ⟨_, _, hexec, (by simpa using hq), ?_, fun j hj => ?_, ?_, fun hgas hburns => ?_, ?_, fun f hf => ?_⟩
    · have hwritten : r.setLevel v = { r with stages := r.stages.set (i - 1) g' } := by
        rw [Record.setLevel_eq v hg, hindex, hg']
      split <;> simp only [hwritten, Record.startGrace]
    · simpa [u] using rec?_modify_follow_other hu hj (Record.setLevel v) r.station
    · rw [hg', hindex, Stage.storedValue_eq, reply_modify_follow]; rfl
    · have hk := huc.head_of_isHead hrec (r := r) (by
        rcases Record.lit_iff.mp (hlit.mpr hburns) with h | ⟨h, hk, -⟩ <;> simp [Record.isHead, *])
      have hb : r.station < u.burners.length := by
        rw [hu.six]; simpa [isGas] using hgas
      have hlevel := level_modify_follow_head hrec hk hgas hb (Record.setLevel v)
      rw [Record.givenLevel_setLevel v hg, if_pos (hlit.mpr hburns), hg'] at hlevel
      simpa using hlevel
    · simp only [← hlit, u, takeCommand_burner, takeCommand_settings]
      split
      · exact ⟨rfl, rfl⟩
      · exact ⟨rfl, rfl⟩
    · simpa [u] using follow_burner_other (u.modify k (Record.setLevel v)) hf
  · have hoff : s.outputsHeld = true := by simpa [State.outputsHeld] using h
    simp [State.levelLine, hoff]
  · have hon : s.outputsHeld = false := by simp [State.outputsHeld, hh, hl]
    simp only [State.levelLine, hon, Bool.false_eq_true, if_false]
    exact dutyOf_table h9

end Sys2Proof.Machine
end

section
/-! PROOFS. What no share of a boundary's work touches, and the Time Base at a slice boundary (R4, R82): O17. -/

namespace Sys2Proof.Machine

/-! ### What a boundary's work leaves alone -/

/-- The blocks that no share of a boundary's work touches, and the Time Base up to its reading of the clock. -/
structure State.SameBoard (s t : State) : Prop where
  held : t.held = s.held
  panel : t.panel = s.panel
  remote : t.remote = s.remote
  lastServed : t.lastServed = s.lastServed
  memory : t.memory = s.memory
  pending : t.pending = s.pending
  time : t.time = { s.time with clock := t.time.clock }

namespace State.SameBoard

theorem rfl' (s : State) : s.SameBoard s := ⟨rfl, rfl, rfl, rfl, rfl, rfl, rfl⟩

theorem trans {s t u : State} (h : s.SameBoard t) (g : t.SameBoard u) : s.SameBoard u :=
  ⟨g.held.trans h.held, g.panel.trans h.panel, g.remote.trans h.remote, g.lastServed.trans h.lastServed,
   g.memory.trans h.memory, g.pending.trans h.pending, by rw [g.time, h.time]⟩

theorem of_sameHost {s t : State} (h : s.SameHost t) : s.SameBoard t :=
  ⟨h.held, h.panel, h.remote, h.lastServed, h.memory, h.pending, by rw [h.time]⟩

theorem ite {s t u : State} {c : Prop} [Decidable c] (h : s.SameBoard t) (g : s.SameBoard u) :
    s.SameBoard (if c then t else u) := by
  split
  · exact h
  · exact g

theorem foldl {α : Type} {f : State → α → State} (h : ∀ (s : State) (a : α), s.SameBoard (f s a)) (l : List α)
    (s : State) : s.SameBoard (l.foldl f s) := by
  induction l generalizing s with
  | nil => exact rfl' s
  | cons a l ih => exact (h s a).trans (ih (f s a))

end State.SameBoard

theorem withSnap_sameBoard (s : State) (b) : s.SameBoard (s.withSnap b) := ⟨rfl, rfl, rfl, rfl, rfl, rfl, rfl⟩

theorem advanceClock_sameBoard (s : State) : s.SameBoard s.advanceClock := by
  rw [advanceClock_eq]
  exact ⟨rfl, rfl, rfl, rfl, rfl, rfl, rfl⟩

theorem endLoad_sameBoard (s : State) : s.SameBoard s.endLoad := by
  rw [endLoad_eq]
  exact ⟨rfl, rfl, rfl, rfl, rfl, rfl, rfl⟩

/-- Every share of the work, whatever is left of the boundary. -/
theorem perform_sameBoard (s : State) (w : Work) : s.SameBoard (s.perform w) := by
  cases w with
  | count k => exact .of_sameHost (countRecord_sameHost s k)
  | judge st => exact .of_sameHost (judgeStation_sameHost s st)
  | relays => exact .of_sameHost (withApp_sameHost s _)
  | closePeriod => exact .of_sameHost (withApp_sameHost s _)
  | openPeriod => exact .of_sameHost (openPeriod_sameHost s)
  | alertTick => exact .of_sameHost (alertTick_sameHost s)
  | syncTick => exact withSnap_sameBoard s _
  | clock => exact advanceClock_sameBoard s
  | released _ => exact .rfl' s
  | refresh => exact .ite (withSnap_sameBoard s _) (withSnap_sameBoard s _)
  | loadEnd => exact endLoad_sameBoard s

theorem takeOne_sameBoard (s : State) (w : Work) : s.SameBoard (s.takeOne w) :=
  .ite ((State.SameBoard.of_sameHost (withTodo_sameHost s _)).trans (perform_sameBoard _ w)) (.rfl' s)

theorem readyToCount_sameBoard (s : State) (k : Nat) : s.SameBoard (s.readyToCount k) :=
  .ite (takeOne_sameBoard s _) (.rfl' s)

theorem takeEngine_sameBoard (s : State) : s.SameBoard s.takeEngine :=
  (takeOne_sameBoard s _).trans (.foldl takeOne_sameBoard _ _)

/-- A share with what the rules put before it. -/
theorem take_sameBoard (s : State) (w : Work) : s.SameBoard (s.take w) := by
  refine .ite ?_ (.rfl' s)
  cases w with
  | count k => exact (readyToCount_sameBoard s k).trans (takeOne_sameBoard _ _)
  | openPeriod => exact (takeEngine_sameBoard s).trans (takeOne_sameBoard _ _)
  | refresh =>
    exact ((State.SameBoard.ite (.rfl' s) (takeEngine_sameBoard s)).trans (takeOne_sameBoard _ _)).trans
      (takeOne_sameBoard _ _)
  | released _ => exact .rfl' s
  | judge _ | relays | closePeriod | alertTick | syncTick | clock | loadEnd => exact takeOne_sameBoard s _

theorem finishBoundary_sameBoard (s : State) : s.SameBoard s.finishBoundary :=
  .ite (.rfl' s) (.foldl take_sameBoard _ _)

/-! ### The boundary itself -/

/-- A boundary's work, taken in whatever order, comes after the boundary that the finished state makes. -/
theorem takeBoundary_sameBoard (s : State) (lines : Lines) (first later : List Work) :
    (s.finishBoundary.makeBoundary lines).SameBoard (s.takeBoundary lines first later) :=
  (State.SameBoard.foldl take_sameBoard first _).trans (.foldl take_sameBoard _ _)

/-- The time after a boundary: that of the boundary made, but for the reading of the clock (R4, R82, R85). -/
theorem takeBoundary_time (s : State) (lines : Lines) (first later : List Work) :
    (s.takeBoundary lines first later).time
      = { s.time.boundary lines with clock := (s.takeBoundary lines first later).time.clock } := by
  have hmade : (s.finishBoundary.makeBoundary lines).time = s.finishBoundary.time.boundary lines := rfl
  rw [(takeBoundary_sameBoard s lines first later).time, hmade, (finishBoundary_sameBoard s).time]
  rfl

/-- The ports, the settings memory and the held part are as before a boundary. -/
theorem takeBoundary_host (s : State) (lines : Lines) (first later : List Work) :
    let t := s.takeBoundary lines first later
    t.panel = s.panel ∧ t.remote = s.remote ∧ t.memory = s.memory ∧ t.held = s.held ∧ t.lastServed = s.lastServed := by
  have hmade := takeBoundary_sameBoard s lines first later
  have hdone := finishBoundary_sameBoard s
  exact ⟨hmade.panel.trans hdone.panel, hmade.remote.trans hdone.remote, hmade.memory.trans hdone.memory,
    hmade.held.trans hdone.held, hmade.lastServed.trans hdone.lastServed⟩

/-- SLICE_BOUNDARY lets the slice run to its last cycle and takes the boundary there (log 30). -/
theorem exec_sliceBoundary {s : State} (h : s.held = false) (lines first later) :
    exec (.sliceBoundary lines first later) s = .next
      ((s.withTime { s.time with cycle := s.time.sliceLength - 1 }).takeBoundary lines first later) := by
  obtain ⟨hlast, hcompletes⟩ := toLastCycle_completes h
  show Host.Outcome.next (s.toLastCycle.crystalCycle lines first later) = _
  rw [State.crystalCycle, if_neg (by simp [hlast, h]), if_pos hcompletes, hlast]

/-- Settles O17: the count at which the event is sent is overwritten, and no share of work touches the counters. -/
theorem sliceBoundaryAdvancesTheTimeBase : Obligations.SliceBoundaryAdvancesTheTimeBase := by
  intro lines first later s h
  let last := s.withTime { s.time with cycle := s.time.sliceLength - 1 }
  have htime := takeBoundary_time last lines first later
  obtain ⟨hpanel, hremote, hmemory, hheld, hserved⟩ := takeBoundary_host last lines first later
  refine ⟨last.takeBoundary lines first later, exec_sliceBoundary h lines first later, ?_, ?_, ?_, ?_, ?_, ?_, ?_,
    hpanel, hremote, hmemory, hheld.trans h, hserved,
    fun n => exec_sliceBoundary (s := { s with time := { s.time with cycle := n } }) h lines first later⟩
  all_goals rw [htime]; rfl

end Sys2Proof.Machine
end

section
/-! PROOFS. What the elements request at an opening (R1, R99 to R101): O21. -/

namespace Sys2Proof.Machine

/-! ### Requests of an element with and without a stage to follow -/

theorem requestOf_oven_none {t : Table} (h : t.requestStage? Config.OV = none) (lines : Lines) {e : Nat} (he : e < 3) :
    requestOf t lines e = 0 := by
  simp [requestOf, he, h]

theorem requestOf_oven_some {t : Table} {g : Stage} (h : t.requestStage? Config.OV = some g) (lines : Lines) {e : Nat}
    (he : e < 3) : requestOf t lines e
      = if e ∈ elementSet Config.OV g ∧ lines.hcall = true ∧ ¬(e = 2 ∧ lines.door = true) then 100 else 0 := by
  simp [requestOf, he, h, and_assoc, imp_iff_not_or]

theorem requestOf_grill_none {t : Table} (h : t.requestStage? Config.GR = none) (lines : Lines) {e : Nat} (he : 3 ≤ e) :
    requestOf t lines e = 0 := by
  simp [requestOf, Nat.not_lt.mpr he, h]

theorem requestOf_grill_some {t : Table} {g : Stage} (h : t.requestStage? Config.GR = some g) (lines : Lines) {e : Nat}
    (he : 3 ≤ e) : requestOf t lines e = if e ∈ elementSet Config.GR g then 20 + 20 * g.level else 0 := by
  simp [requestOf, Nat.not_lt.mpr he, h]

/-! ### The element sets by function (R1) -/

theorem mem_elementSet_oven (g : Stage) :
    (0 ∈ elementSet Config.OV g ↔ g.level = 1 ∨ g.level = 4)
    ∧ (1 ∈ elementSet Config.OV g ↔ g.level = 1 ∨ g.level = 3 ∨ g.level = 5)
    ∧ (2 ∈ elementSet Config.OV g ↔ g.level = 2 ∨ g.level = 5) := by
  unfold elementSet
  rw [if_pos rfl]
  split <;> simp_all

theorem mem_elementSet_grill (g : Stage) :
    3 ∈ elementSet Config.GR g ∧ (4 ∈ elementSet Config.GR g ↔ g.full = true) := by
  unfold elementSet
  rw [if_neg (by decide), if_pos rfl]
  cases g.full <;> decide

/-! ### The stage a head requests from (R99) -/

/-- A RUNNING head, or an ENDED one with the keep mark, requests from the stage it shows; any other head from none. -/
theorem requestStage?_head {t : Table} {st : Nat} {r : Record} (h : t.headRec? st = some r) :
    t.requestStage? st
      = if r.state = .running ∨ (r.state = .ended ∧ r.keep = true) then r.shownStage? else none := by
  unfold Table.requestStage?
  rw [h]
  cases hs : r.state <;> simp [hs]

/-- Settles O21, by the oven's function, the grill's half, and the state of the head. -/
theorem requestsFollowTheHeads : Obligations.RequestsFollowTheHeads := by
  intro t lines
  refine ⟨fun g hg => ?_, fun hn e he => ?_, fun g hg => ?_, fun hn e he => ?_, fun st r hr => ?_⟩
  · obtain ⟨h0, h1, h2⟩ := mem_elementSet_oven g
    have hreq := fun e he => requestOf_oven_some hg lines (e := e) he
    refine ⟨fun e he hcall => ?_, fun hdoor => ?_, fun hcall e he => ?_, fun hcall hdoor => ?_⟩
    · have : e < 3 := by simp at he; omega
      simp [hreq e this, hcall]
    · simp [hreq 2 (by decide), hdoor]
    · obtain rfl | rfl : e = 0 ∨ e = 1 := by simpa using he
      · simp [hreq 0 (by decide), hcall, h0]
      · simp [hreq 1 (by decide), hcall, h1]
    · simp [hreq 2 (by decide), hcall, hdoor, h2]
  · exact requestOf_oven_none hn lines (by simp at he; omega)
  · obtain ⟨h3, h4⟩ := mem_elementSet_grill g
    exact ⟨by rw [requestOf_grill_some hg lines (by decide), if_pos h3],
      by rw [requestOf_grill_some hg lines (by decide)]; exact if_congr h4 rfl rfl⟩
  · exact requestOf_grill_none hn lines (by simp at he; omega)
  · rw [requestStage?_head hr]
    refine ⟨fun h => if_neg ?_, fun h => ?_, fun h hk => ?_⟩
    · rcases h with h | h | h | h | ⟨h, hk⟩ <;> simp [*]
    · simp [h, Record.shownStage?, Record.shownIndex]
    · simp [h, hk, Record.shownStage?, Record.shownIndex]

end Sys2Proof.Machine
end

section
/-! PROOFS. Placement of the elements into a plan (R3, R102, R103): O22. -/

namespace Sys2Proof.Machine

/-! ### One element -/

/-- The first members of an ascending list: what is not among the first n comes after n of them. -/
theorem mem_take_or_later {l : List Nat} (h : l.Pairwise (· < ·)) (n : Nat) {j : Nat} (hj : j ∈ l) :
    j ∈ l.take n ∨ (j ∉ l.take n ∧ (l.take n).length = n ∧ ∀ i ∈ l.take n, i < j) := by
  by_cases hm : j ∈ l.take n
  · exact .inl hm
  · rw [← List.take_append_drop n l] at h hj
    have hdrop : j ∈ l.drop n := (List.mem_append.mp hj).resolve_left hm
    have hlong : n < l.length := by
      have := List.length_pos_of_mem hdrop
      rw [List.length_drop] at this; omega
    exact .inr ⟨hm, by rw [List.length_take]; omega, fun i hi => (List.pairwise_append.mp h).2.2 i hi j hdrop⟩

theorem Apportioner.walk_ascending (a : Apportioner) (x : Element) : (a.walk x).Pairwise (· < ·) :=
  (List.pairwise_lt_range.filter _).sublist (List.take_sublist _ _)

/-- A slice is taken, has no room, or comes after the last of all that was requested (R102). -/
theorem Apportioner.mem_walk_cases (a : Apportioner) (x : Element) {j : Nat} (hj : j < 100) :
    (j ∈ a.walk x ∧ a.load j + x.rating ≤ a.periodBudget) ∨ (j ∉ a.walk x ∧ a.periodBudget < a.load j + x.rating)
    ∨ (j ∉ a.walk x ∧ (a.walk x).length = x.request ∧ ∀ i ∈ a.walk x, i < j) := by
  let room := (List.range Config.periodSlices).filter (fun j => decide (a.load j + x.rating ≤ a.periodBudget))
  have hmem : j ∈ room ↔ a.load j + x.rating ≤ a.periodBudget := by simp [room, hj]
  by_cases hfits : a.load j + x.rating ≤ a.periodBudget
  · rcases mem_take_or_later (List.pairwise_lt_range.filter _) x.request (hmem.mpr hfits) with h | h
    · exact .inl ⟨h, hfits⟩
    · exact .inr (.inr h)
  · exact .inr (.inl ⟨fun h => hfits (hmem.mp (List.mem_of_mem_take h)), Nat.not_le.mp hfits⟩)

/-- The slices that placing an element takes: none at a rating above the budget (R103). -/
def Apportioner.slicesFor (a : Apportioner) (x : Element) : List Nat :=
  if a.periodBudget < x.rating then [] else a.walk x

/-- The element placed holds its slices, their number and its mark. -/
theorem Apportioner.element_place_same (a : Apportioner) {e : Nat} (h : e < a.elements.length) :
    (a.place e).element e = { a.element e with
      on := a.slicesFor (a.element e), grant := (a.slicesFor (a.element e)).length
      blocked := decide (0 < (a.element e).request) && decide (a.periodBudget < (a.element e).rating) } := by
  simp [Apportioner.place, Apportioner.element, Apportioner.slicesFor, h]

/-- Placing an element leaves the others alone. -/
theorem Apportioner.element_place_other (a : Apportioner) {e f : Nat} (h : f ≠ e) : (a.place e).element f = a.element f := by
  simp [Apportioner.place, Apportioner.element, List.getElem?_set_ne (Ne.symm h)]

theorem Apportioner.slicesFor_shape (a : Apportioner) (x : Element) :
    (a.slicesFor x).length ≤ x.request ∧ (a.slicesFor x).Pairwise (· < ·) := by
  unfold Apportioner.slicesFor
  split
  · exact ⟨Nat.zero_le _, .nil⟩
  · exact ⟨List.length_take_le _ _, a.walk_ascending x⟩

/-! ### The order (R3) -/

/-- Placement order: ascending rank, and of equal rank ascending index. -/
def Apportioner.Before (a : Apportioner) (e f : Nat) : Prop :=
  (a.element e).rank < (a.element f).rank ∨ ((a.element e).rank = (a.element f).rank ∧ e < f)

/-- With every rank in 0..7 the order takes the elements rank by rank. -/
theorem Apportioner.placementOrder_eq {a : Apportioner} (h : ∀ e, e < 5 → (a.element e).rank ≤ 7) :
    a.placementOrder = (List.range 8).flatMap (fun r => allElements.filter (fun e => (a.element e).rank == r)) := by
  have hnone : allElements.filter (fun e => decide (8 ≤ (a.element e).rank)) = [] := by
    refine List.filter_eq_nil_iff.mpr fun e he => ?_
    have := h e (by simp [allElements] at he; omega)
    simp only [decide_eq_true_eq]; omega
  rw [Apportioner.placementOrder, hnone, List.append_nil]

theorem Apportioner.placementOrder_pairwise {a : Apportioner} (h : ∀ e, e < 5 → (a.element e).rank ≤ 7) :
    a.placementOrder.Pairwise a.Before := by
  rw [Apportioner.placementOrder_eq h, List.pairwise_flatMap]
  have hrank : ∀ {r e}, e ∈ allElements.filter (fun e => (a.element e).rank == r) → (a.element e).rank = r :=
    fun he => by simpa using (List.mem_filter.mp he).2
  refine ⟨fun r _ => ?_, List.pairwise_lt_range.imp fun hlt e he f hf => .inl (by rw [hrank he, hrank hf]; exact hlt)⟩
  have hindex : (allElements.filter (fun e => (a.element e).rank == r)).Pairwise (· < ·) :=
    List.Pairwise.filter _ (by decide)
  exact hindex.imp_of_mem fun he hf hlt => .inr ⟨(hrank he).trans (hrank hf).symm, hlt⟩

theorem Apportioner.mem_placementOrder {a : Apportioner} (h : ∀ e, e < 5 → (a.element e).rank ≤ 7) (e : Nat) :
    e ∈ a.placementOrder ↔ e ∈ allElements := by
  rw [Apportioner.placementOrder_eq h]
  simp only [List.mem_flatMap, List.mem_range, List.mem_filter, beq_iff_eq]
  refine ⟨fun ⟨_, _, he, _⟩ => he, fun he => ⟨_, ?_, he, rfl⟩⟩
  have := h e (by simp [allElements] at he; omega)
  omega

/-- Every element stands in the order once. -/
theorem Apportioner.placementOrder_perm {a : Apportioner} (h : ∀ e, e < 5 → (a.element e).rank ≤ 7) :
    a.placementOrder.Perm allElements := by
  have hnodup : a.placementOrder.Nodup :=
    (Apportioner.placementOrder_pairwise h).imp fun hb he => by
      rcases hb with hb | ⟨-, hb⟩ <;> simp [he] at hb
  exact (List.perm_ext_iff_of_nodup hnodup (by decide)).mpr (Apportioner.mem_placementOrder h)

/-! ### All elements -/

/-- The Apportioner with no element in its plan. -/
def Apportioner.cleared (a : Apportioner) : Apportioner :=
  { a with elements := a.elements.map (fun x => { x with on := [], grant := 0, blocked := false }) }

/-- Clearing the plan leaves the ranks alone, and so the order. -/
theorem Apportioner.cleared_placementOrder (a : Apportioner) : a.cleared.placementOrder = a.placementOrder := by
  have hrank : ∀ e, (a.cleared.element e).rank = (a.element e).rank := fun e => by
    simp only [Apportioner.cleared, Apportioner.element, List.getD_eq_getElem?_getD, List.getElem?_map]
    cases a.elements[e]? <;> rfl
  simp only [Apportioner.placementOrder, hrank]

/-- A change that does not look at the index goes through the elements one by one. -/
theorem Apportioner.mapElements_const (a : Apportioner) (f : Element → Element) :
    a.mapElements (fun _ x => f x) = { a with elements := a.elements.map f } := by
  have h : a.elements.zipIdx.map (fun p => f p.1) = a.elements.map f := by
    calc a.elements.zipIdx.map (fun p => f p.1) = (a.elements.zipIdx.map Prod.fst).map f := List.map_map.symm
      _ = a.elements.map f := by rw [List.zipIdx_map_fst]
  simp only [Apportioner.mapElements, h]

/-- Settles O22: the walk takes the first slices with room, and the order is the sorted one. -/
theorem placementTakesTheFirstSlicesWithRoom : Obligations.PlacementTakesTheFirstSlicesWithRoom := by
  refine ⟨fun a e he _ => ?_, fun a h => ⟨Apportioner.placementOrder_perm h, Apportioner.placementOrder_pairwise h, ?_⟩⟩
  · obtain ⟨hcount, hasc⟩ := a.slicesFor_shape (a.element e)
    intro b x
    have hx : x = _ := a.element_place_same he
    rw [hx]
    refine ⟨rfl, hcount, hasc, rfl, fun hover => ⟨if_pos hover, ?_⟩, fun hfits => ⟨?_, fun j hj => ?_⟩,
      fun f hf => a.element_place_other hf⟩
    · simpa using fun _ => hover
    · simpa using fun _ => hfits
    · have hwalk : a.slicesFor (a.element e) = a.walk (a.element e) := if_neg (Nat.not_lt.mpr hfits)
      simpa only [hwalk] using a.mem_walk_cases (a.element e) hj
  · rw [Apportioner.placeAll, Apportioner.mapElements_const]
    exact congrArg (List.foldl Apportioner.place a.cleared) a.cleared_placementOrder

end Sys2Proof.Machine
end

section
/-! PROOFS. Power, the release of RESETn, and the state after reset (R8): O4, O10. -/

namespace Sys2Proof.Machine

/-! ### The power-on state of the blocks -/

/-- Every place of a list of one value reads that value, with the same value beyond its end. -/
theorem getD_replicate_default {α : Type} (n i : Nat) (d : α) : (List.replicate n d).getD i d = d := by
  rw [List.getD_eq_getElem?_getD, List.getElem?_getD_replicate_default_eq]

theorem Table.empty_rec? (k : Nat) : Table.empty.rec? k = none := by
  unfold Table.rec?
  split
  · rfl
  · exact getD_replicate_default _ _ _

theorem Table.empty_head (st : Nat) : Table.empty.head st = 0 := getD_replicate_default _ _ _

theorem Table.empty_queue (st : Nat) : Table.empty.queue st = [] := getD_replicate_default _ _ _

/-- No burner of the power-on state is lit. -/
theorem burner_of_replicate {s : State} (h : s.burners = List.replicate 6 ⟨0, 0⟩) (st : Nat) : s.burner st = ⟨0, 0⟩ := by
  rw [State.burner, h, getD_replicate_default]

/-- Whatever the reading of status and header finds, the load begins with default settings. -/
theorem beginLoad_cases (status : List Byte) (m : List Host.Cell) :
    ∃ finding n part, beginLoad status m = .powerUp finding n part := by
  unfold beginLoad
  split
  · split <;> exact ⟨_, _, _, rfl⟩
  · exact ⟨_, _, _, rfl⟩

/-- A part whose load has begun on default settings is powered up, whatever its memory and its queue. -/
theorem poweredUp_powerUp (radr : BitVec 2) (finding n part m q link) :
    ({ State.powerUp radr (.powerUp finding n part) m q with link := link } : State).PoweredUp radr where
  held := rfl
  cycle := rfl
  slice := rfl
  second := rfl
  clock := ⟨rfl, rfl⟩
  lines := ⟨rfl, rfl, rfl⟩
  slots := Table.empty_rec?
  stations st := ⟨Table.empty_head st, Table.empty_queue st⟩
  burners st := congrArg Burner.level (burner_of_replicate rfl st)
  plan e := by
    match e with
    | 0 | 1 | 2 | 3 | 4 | _ + 5 => exact ⟨rfl, rfl, rfl, rfl, rfl, rfl⟩
  in_force := ⟨rfl, rfl⟩
  budgets := ⟨rfl, rfl, rfl, rfl⟩
  figures := ⟨rfl, rfl⟩
  quiet := ⟨rfl, rfl, rfl, rfl⟩
  settings i it h := by
    show (Config.items.map Config.Item.dflt)[i]? = _
    rw [List.getElem?_map, h, Option.map_some]
  load := ⟨rfl, rfl, rfl, rfl, rfl⟩
  window := ⟨rfl, rfl, rfl⟩
  panel := ⟨rfl, rfl, rfl, rfl, rfl⟩
  remote := ⟨rfl, rfl, rfl⟩
  address := rfl
  served := rfl
  entries := ⟨rfl, rfl, rfl⟩

/-- Starting the part powers it up. -/
theorem startPart_poweredUp (s : State) (radr : BitVec 2) (status : List Byte) (m : List Host.Cell) :
    (s.startPart radr status m).PoweredUp radr := by
  obtain ⟨finding, n, part, h⟩ := beginLoad_cases status m
  rw [State.startPart, h]
  exact poweredUp_powerUp radr finding n part m s.pending _

/-- Without a store in progress, power cut from the memory changes none of its bytes. -/
theorem memoryAfterCut_idle {s : State} (h : s.settings.storing = false) (landed : Bool) :
    s.memoryAfterCut landed = s.memory := by
  unfold State.memoryAfterCut
  unfold SettingsUnit.storing at h
  cases hs : s.settings.store <;> simp_all

/-- Settles O4: both events start the part, on the memory as it stands. -/
theorem powerOnAndReleaseStartThePart : Obligations.PowerOnAndReleaseStartThePart :=
  ⟨fun radr status landed s => ⟨s.startPart radr status (s.memoryAfterCut landed), rfl, startPart_poweredUp _ _ _ _, rfl,
      fun h => memoryAfterCut_idle h landed⟩,
    fun radr status s hheld => ⟨s.startPart radr status s.memory, congrArg Host.Outcome.next (if_pos hheld),
      startPart_poweredUp _ _ _ _, rfl, rfl⟩⟩

/-! ### The invariants of the state after reset -/

theorem Table.empty_slotsWhere (p : Record → Bool) : Table.empty.slotsWhere p = [] := by
  simp [Table.slotsWhere, Table.empty_rec?]

/-- A table without records is consistent. -/
theorem Table.empty_consistent : Table.empty.Consistent where
  slots := List.length_replicate
  heads := List.length_replicate
  queues := List.length_replicate
  sound k r h := by simp [Table.empty_rec?] at h
  head_iff k r h := by simp [Table.empty_rec?] at h
  head_rec st _ h := absurd (Table.empty_head st) h
  queue_iff k r h := by simp [Table.empty_rec?] at h
  queue_rec st k _ h := by simp [Table.empty_queue] at h
  queue_once st := by simp [Table.empty_queue]
  queue_head st _ h := absurd (Table.empty_queue st) h
  station_full st _ := by simp [Table.stationCount, Table.empty_slotsWhere]
  linked k r h := by simp [Table.empty_rec?] at h
  chain k r h := by simp [Table.empty_rec?] at h

theorem Table.empty_levelOf (st : Nat) : Table.empty.levelOf st = 0 := by
  rw [Table.levelOf_eq, Table.headRec?, Table.empty_rec?, Option.elim_none]

/-- Dark burners follow a table without heads. -/
theorem levelsFollow_of_empty {s : State} (ht : s.table = .empty) (hb : s.burners = List.replicate 6 ⟨0, 0⟩) :
    s.LevelsFollow where
  six := by rw [hb, List.length_replicate]
  level st _ := by rw [burner_of_replicate hb, ht, Table.empty_levelOf]
  source st _ h := absurd (congrArg Burner.level (burner_of_replicate hb st)) h

/-- No alert is best in a table without records. -/
theorem bestAlert_empty (u : SettingsUnit) (visible : Nat → Bool) : bestAlert .empty u visible = none := by
  have hnone : pendingAlerts .empty u visible = [] := by
    simp [pendingAlerts, Table.empty_rec?]
  rw [bestAlert, hnone]; rfl

/-- A quiet annunciator is settled on a table without records, while the start-up load runs. -/
theorem settled_of_empty {s : State} (ht : s.table = .empty) (ha : s.ann = .quiet) (hl : s.loading = true) : s.Settled where
  alive c hc := by simp [ha, Annunciator.quiet] at hc
  best b hb := by simp [ht, bestAlert_empty] at hb
  load_work _ := hl
  load_empty _ k := by rw [ht, Table.empty_rec?]

/-- The defaults lie in range (R171). -/
theorem powerUp_inRange (finding n part) : (SettingsUnit.powerUp finding n part).InRange where
  all := List.length_map _
  items p hp := by
    have hdflt : ∀ q ∈ Config.items.zip (Config.items.map Config.Item.dflt), itemAccepts q.1 q.2 = true := by decide
    exact hdflt p hp
  shed h := absurd rfl h

/-- An empty plan loads no slice. -/
theorem powerUp_load (j : Nat) : Apportioner.powerUp.load j = 0 := rfl

/-- Settles O10: every block of the state after reset is the one that powers up. -/
theorem resetMeetsTheInvariants : Obligations.ResetMeetsTheInvariants :=
  ⟨poweredUp_powerUp 0#2 .blank 0 false [] [] [], rfl, rfl, rfl, Annunciator.quiet_ordered, settled_of_empty rfl rfl rfl,
    by decide, powerUp_inRange _ _ _, Table.empty_consistent, levelsFollow_of_empty rfl rfl,
    { five := rfl, slice := by decide, second := by decide, fits := fun _ j _ _ => (powerUp_load j).trans_le (Nat.zero_le _) }⟩

end Sys2Proof.Machine
end


section
/-! SUPPORT. Changes of the Schedule Table known by what they read back, and the consistency that each keeps (R17, R18, R22, R24,
R41, R43, R74). -/

namespace Sys2Proof.Machine

/-! ### Two kinds of change -/

/-- The second table has the first one's heads and queues, and each record of it is a change of the record in the same slot. -/
structure Table.Mapped (t t' : Table) (g : Nat → Record → Record) : Prop where
  slots : t'.slots.length = t.slots.length
  heads : t'.heads = t.heads
  queues : t'.queues = t.queues
  rec? : ∀ j, t'.rec? j = (t.rec? j).map (g j)

/-- The second table is the first with one slot, and the head and the queue of one station, replaced. -/
structure Table.Update (t t' : Table) (k st : Nat) (o : Option Record) (h : Nat) (q : List Nat) : Prop where
  slots : t'.slots.length = t.slots.length
  heads : t'.heads.length = t.heads.length
  queues : t'.queues.length = t.queues.length
  rec? : ∀ j, t'.rec? j = if j = k then o else t.rec? j
  head : ∀ f, t'.head f = if f = st then h else t.head f
  queue : ∀ f, t'.queue f = if f = st then q else t.queue f

namespace Table.Mapped

variable {t t' t'' : Table} {g g' : Nat → Record → Record}

theorem refl (t : Table) : t.Mapped t (fun _ r => r) := ⟨rfl, rfl, rfl, fun j => by simp⟩

theorem trans (h : t.Mapped t' g) (h' : t'.Mapped t'' g') : t.Mapped t'' (fun j r => g' j (g j r)) :=
  ⟨h'.slots.trans h.slots, h'.heads.trans h.heads, h'.queues.trans h.queues, fun j => by
    rw [h'.rec?, h.rec?, Option.map_map]; rfl⟩

theorem head (h : t.Mapped t' g) (st : Nat) : t'.head st = t.head st := by rw [Table.head, h.heads]; rfl

theorem queue (h : t.Mapped t' g) (st : Nat) : t'.queue st = t.queue st := by rw [Table.queue, h.queues]; rfl

theorem rec?_some (h : t.Mapped t' g) {j : Nat} {q : Record} (hq : t'.rec? j = some q) :
    ∃ r, t.rec? j = some r ∧ q = g j r := by
  rw [h.rec?] at hq
  obtain ⟨r, hr, rfl⟩ := Option.map_eq_some_iff.mp hq
  exact ⟨r, hr, rfl⟩

/-- A change is known by what it does to the records that stand. -/
theorem congr (h : t.Mapped t' g) (hg : ∀ j r, t.rec? j = some r → g j r = g' j r) : t.Mapped t' g' :=
  ⟨h.slots, h.heads, h.queues, fun j => (h.rec? j).trans (Option.map_congr fun r hr => hg j r hr)⟩

end Table.Mapped

@[simp] theorem Table.modify_length (t : Table) (k f) : (t.modify k f).slots.length = t.slots.length := by
  unfold Table.modify; split <;> simp

/-- One record changes. -/
theorem Table.modify_mapped (t : Table) (k : Nat) (f : Record → Record) :
    t.Mapped (t.modify k f) (fun j r => if j = k then f r else r) where
  slots := t.modify_length k f
  heads := t.modify_heads k f
  queues := t.modify_queues k f
  rec? j := by
    rw [Table.rec?_modify]
    by_cases h : j = k
    · simp [h]
    · simp [h]

/-- Several records change, each once. -/
theorem foldl_modify_mapped (f : Record → Record) (ks : List Nat) (hk : ks.Nodup) (s : State) :
    s.table.Mapped (ks.foldl (fun s k => s.modify k f) s).table (fun j r => if j ∈ ks then f r else r) := by
  induction ks generalizing s with
  | nil => exact (Table.Mapped.refl _).congr fun j r _ => by simp
  | cons k ks ih =>
    obtain ⟨hnot, hnodup⟩ := List.nodup_cons.mp hk
    refine ((Table.modify_mapped s.table k f).trans (ih hnodup (s.modify k f))).congr fun j r _ => ?_
    by_cases hj : j = k
    · simp [hj, hnot]
    · simp [hj]

/-- Changes of records, one after another, change the table alone. -/
theorem foldl_modify_eq (f : Record → Record) (ks : List Nat) (s : State) :
    ks.foldl (fun s k => s.modify k f) s = s.withTable (ks.foldl (fun s k => s.modify k f) s).table := by
  induction ks generalizing s with
  | nil => rfl
  | cons k ks ih => exact ih (s.modify k f)

/-! ### Slots and stations -/

theorem allSlots_pairwise : allSlots.Pairwise (· < ·) := by
  rw [allSlots, List.pairwise_map]
  exact List.pairwise_lt_range.imp fun h => Nat.succ_lt_succ h

theorem allSlots_nodup : allSlots.Nodup := allSlots_pairwise.imp fun h => Nat.ne_of_lt h

theorem Table.slotsWhere_pairwise (t : Table) (p : Record → Bool) : (t.slotsWhere p).Pairwise (· < ·) :=
  allSlots_pairwise.filter _

theorem Table.slotsWhere_nodup (t : Table) (p : Record → Bool) : (t.slotsWhere p).Nodup := allSlots_nodup.filter _

/-- A record of a table of 48 slots stands in one of them. -/
theorem Table.mem_allSlots_of_rec? {t : Table} (hlen : t.slots.length = Config.slotCount) {k : Nat} {r : Record}
    (h : t.rec? k = some r) : k ∈ allSlots := by
  obtain ⟨hpos, hlt⟩ := Table.rec?_some_pos h
  rw [hlen] at hlt
  exact mem_allSlots.mpr ⟨hpos, by omega⟩

/-- Where no station gains a record, none gains in its count. -/
theorem Table.stationCount_le {t t' : Table} {f : Nat}
    (h : ∀ j q, t'.rec? j = some q → q.station = f → ∃ r, t.rec? j = some r ∧ r.station = f) :
    t'.stationCount f ≤ t.stationCount f := by
  refine (List.monotone_filter_right allSlots fun j hj => ?_).length_le
  cases hq : t'.rec? j with
  | none => simp [hq] at hj
  | some q =>
    obtain ⟨r, hr, hst⟩ := h j q hq (by simpa [hq] using hj)
    simp [hr, hst]

/-- A new record in one slot raises a station's count by at most 1. -/
theorem Table.stationCount_le_succ {t t' : Table} {f k : Nat}
    (h : ∀ j q, j ≠ k → t'.rec? j = some q → q.station = f → ∃ r, t.rec? j = some r ∧ r.station = f) :
    t'.stationCount f ≤ t.stationCount f + 1 := by
  have hsub : (t'.slotsWhere (fun r => r.station == f)).erase k ⊆ t.slotsWhere (fun r => r.station == f) := by
    intro j hj
    obtain ⟨hne, hj⟩ := (Table.slotsWhere_nodup t' _).mem_erase_iff.mp hj
    obtain ⟨hall, q, hq, hst⟩ := Table.mem_slotsWhere.mp hj
    obtain ⟨r, hr, hrst⟩ := h j q hne hq (by simpa using hst)
    exact Table.mem_slotsWhere.mpr ⟨hall, r, hr, by simpa using hrst⟩
  have hle := (List.subperm_of_subset ((Table.slotsWhere_nodup t' _).erase k) hsub).length_le
  rw [List.length_erase] at hle
  unfold Table.stationCount
  split at hle <;> omega

/-! ### Chains of links (R74) -/

/-- Where every link of the second table is one of the first, no chain is deeper. -/
theorem Table.depth_le {t t' : Table}
    (h : ∀ j q, t'.rec? j = some q → q.holdsLink = true →
      ∃ r, t.rec? j = some r ∧ r.holdsLink = true ∧ r.start.linked = q.start.linked) (n k : Nat) :
    t'.depth n k ≤ t.depth n k := by
  induction n generalizing k with
  | zero => exact Nat.le_refl _
  | succ n ih =>
    unfold Table.depth
    cases hq : t'.rec? k with
    | none => simp
    | some q =>
      dsimp only
      split
      · next hl =>
        obtain ⟨r, hr, hrl, hlinked⟩ := h k q hq hl
        simp [hr, hrl, hlinked, ih]
      · exact Nat.zero_le _

/-- More fuel counts no less. -/
theorem Table.depth_mono (t : Table) (n k : Nat) : t.depth n k ≤ t.depth (n + 1) k := by
  induction n generalizing k with
  | zero => exact Nat.zero_le _
  | succ n ih =>
    rw [Table.depth, Table.depth]
    cases t.rec? k with
    | none => exact Nat.le_refl _
    | some r =>
      dsimp only
      split
      · exact Nat.add_le_add_left (ih _) 1
      · exact Nat.le_refl _

/-- A chain that the fuel outlasts is counted to its end. -/
theorem Table.depth_succ_of_lt {t : Table} {n k : Nat} (h : t.depth n k < n) : t.depth (n + 1) k = t.depth n k := by
  induction n generalizing k with
  | zero => exact absurd h (Nat.not_lt_zero _)
  | succ n ih =>
    rw [Table.depth, Table.depth]
    cases hr : t.rec? k with
    | none => rfl
    | some r =>
      rw [Table.depth, hr] at h
      dsimp only at h ⊢
      split
      · next hl =>
        rw [if_pos hl] at h
        rw [ih (by omega)]
      · rfl

/-! ### Records that stand alike -/

/-- The second record can stand in the place of the first: on the same station, as much head or QUEUED as it, sound if it was, and
with no link but one that the first held. -/
structure Record.Alike (r q : Record) : Prop where
  station : q.station = r.station
  isHead : q.isHead = r.isHead
  queued : q.state = .queued ↔ r.state = .queued
  sound : r.Sound → q.Sound
  link : q.holdsLink = true → r.holdsLink = true ∧ q.start.linked = r.start.linked

theorem Record.Alike.refl (r : Record) : r.Alike r := ⟨rfl, rfl, Iff.rfl, id, fun h => ⟨h, rfl⟩⟩

theorem Record.Alike.trans {r q p : Record} (h : r.Alike q) (h' : q.Alike p) : r.Alike p where
  station := h'.station.trans h.station
  isHead := h'.isHead.trans h.isHead
  queued := h'.queued.trans h.queued
  sound := h'.sound ∘ h.sound
  link hp := by
    obtain ⟨hq, hpq⟩ := h'.link hp
    obtain ⟨hr, hqr⟩ := h.link hq
    exact ⟨hr, hpq.trans hqr⟩

/-! ### Consistency, and what a retirement leaves open meanwhile -/

/-- The table is consistent, but that a station of `vacant` may have a queue without a head, and that the record of a slot of
`dangling` may hold a link to an EMPTY slot: what is open between the retirements of a set (R37, R39), or between a head's leaving
and a promotion (R25). -/
structure Table.Nearly (t : Table) (vacant dangling : Nat → Prop) : Prop where
  slots : t.slots.length = Config.slotCount
  heads : t.heads.length = 8
  queues : t.queues.length = 8
  sound : ∀ k r, t.rec? k = some r → r.Sound
  head_iff : ∀ k r, t.rec? k = some r → (r.isHead = true ↔ t.head r.station = k)
  head_rec : ∀ st, st < 8 → t.head st ≠ 0 → ∃ r, t.rec? (t.head st) = some r ∧ r.station = st
  queue_iff : ∀ k r, t.rec? k = some r → (r.state = .queued ↔ k ∈ t.queue r.station)
  queue_rec : ∀ st k, st < 8 → k ∈ t.queue st → ∃ r, t.rec? k = some r ∧ r.station = st
  queue_once : ∀ st, (t.queue st).Nodup
  queue_head : ∀ st, st < 8 → ¬ vacant st → t.queue st ≠ [] → t.head st ≠ 0
  station_full : ∀ st, st < 8 → t.stationCount st ≤ 6
  linked : ∀ k r, t.rec? k = some r → r.holdsLink = true → ¬ dangling k → ∃ q, t.rec? r.start.linked = some q
  chain : ∀ k r, t.rec? k = some r → t.depth 5 k ≤ 4

/-- Nothing is left open. -/
def noSlot (_ : Nat) : Prop := False

theorem Table.Consistent.nearly {t : Table} (h : t.Consistent) (D : Nat → Prop) : t.Nearly noSlot D :=
  ⟨h.slots, h.heads, h.queues, h.sound, h.head_iff, h.head_rec, h.queue_iff, h.queue_rec, h.queue_once,
    fun st hst _ => h.queue_head st hst, h.station_full, fun k r hr hl _ => h.linked k r hr hl, h.chain⟩

/-- Once no station is without a head for its queue, and no record is left that may hold a link to an EMPTY slot, the table is
consistent. -/
theorem Table.Nearly.consistent {t : Table} {V D : Nat → Prop} (h : t.Nearly V D)
    (hV : ∀ st, st < 8 → V st → t.queue st = []) (hD : ∀ k r, D k → t.rec? k = some r → r.holdsLink = false) :
    t.Consistent where
  slots := h.slots
  heads := h.heads
  queues := h.queues
  sound := h.sound
  head_iff := h.head_iff
  head_rec := h.head_rec
  queue_iff := h.queue_iff
  queue_rec := h.queue_rec
  queue_once := h.queue_once
  queue_head st hst hq := h.queue_head st hst (fun hv => hq (hV st hst hv)) hq
  station_full := h.station_full
  linked k r hr hl := h.linked k r hr hl fun hd => by simp [hD k r hd hr] at hl
  chain := h.chain

section

variable {t t' : Table} {V D : Nat → Prop}

/-- A record of a table stands on one of the eight stations. -/
theorem Table.Nearly.station_lt (h : t.Nearly V D) {k : Nat} {r : Record} (hr : t.rec? k = some r) : r.station < 8 :=
  (h.sound k r hr).station

theorem Table.Nearly.mem_allSlots (h : t.Nearly V D) {k : Nat} {r : Record} (hr : t.rec? k = some r) : k ∈ allSlots :=
  Table.mem_allSlots_of_rec? h.slots hr

/-- A station beyond the eighth has no head. -/
theorem Table.head_beyond (h : t.heads.length = 8) {st : Nat} (hst : ¬ st < 8) : t.head st = 0 := by
  rw [Table.head, List.getD_eq_getElem?_getD, List.getElem?_eq_none (by omega)]; rfl

/-- A slot is the head of the station of its record only. -/
theorem Table.Nearly.head_ne (h : t.Nearly V D) {k f : Nat} {r : Record} (hr : t.rec? k = some r) (hf : f ≠ r.station) :
    t.head f ≠ k := by
  intro he
  obtain ⟨hpos, -⟩ := Table.rec?_some_pos hr
  by_cases hlt : f < 8
  · obtain ⟨q, hq, hst⟩ := h.head_rec f hlt (by omega)
    rw [he, hr, Option.some.injEq] at hq
    exact hf (by rw [hq, hst])
  · have := Table.head_beyond h.heads hlt
    omega

/-- A record that is QUEUED stands in its station's queue, and is not the head. -/
theorem Table.Nearly.of_mem_queue (h : t.Nearly V D) {st n : Nat} (hst : st < 8) (hn : n ∈ t.queue st) :
    ∃ r, t.rec? n = some r ∧ r.station = st ∧ r.state = .queued ∧ t.head st ≠ n := by
  obtain ⟨r, hr, hrst⟩ := h.queue_rec st n hst hn
  have hq : r.state = .queued := (h.queue_iff n r hr).mpr (by rwa [hrst])
  refine ⟨r, hr, hrst, hq, fun he => ?_⟩
  have hhead : r.isHead = true := (h.head_iff n r hr).mpr (by rw [hrst, he])
  simp [Record.isHead, hq] at hhead

/-- Records that stand alike keep the table as consistent as it was. -/
theorem Table.Nearly.mapped {g : Nat → Record → Record} (h : t.Nearly V D) (hm : t.Mapped t' g)
    (ha : ∀ j r, t.rec? j = some r → r.Alike (g j r)) : t'.Nearly V D where
  slots := hm.slots.trans h.slots
  heads := by rw [hm.heads, h.heads]
  queues := by rw [hm.queues, h.queues]
  sound j q hq := by
    obtain ⟨r, hr, rfl⟩ := hm.rec?_some hq
    exact (ha j r hr).sound (h.sound j r hr)
  head_iff j q hq := by
    obtain ⟨r, hr, rfl⟩ := hm.rec?_some hq
    rw [(ha j r hr).isHead, (ha j r hr).station, hm.head]
    exact h.head_iff j r hr
  head_rec st hst hne := by
    rw [hm.head] at hne ⊢
    obtain ⟨r, hr, hrst⟩ := h.head_rec st hst hne
    exact ⟨_, by rw [hm.rec?, hr, Option.map_some], (ha _ r hr).station.trans hrst⟩
  queue_iff j q hq := by
    obtain ⟨r, hr, rfl⟩ := hm.rec?_some hq
    rw [(ha j r hr).queued, (ha j r hr).station, hm.queue]
    exact h.queue_iff j r hr
  queue_rec st j hst hj := by
    rw [hm.queue] at hj
    obtain ⟨r, hr, hrst⟩ := h.queue_rec st j hst hj
    exact ⟨_, by rw [hm.rec?, hr, Option.map_some], (ha _ r hr).station.trans hrst⟩
  queue_once st := by rw [hm.queue]; exact h.queue_once st
  queue_head st hst hv hq := by
    rw [hm.head]
    rw [hm.queue] at hq
    exact h.queue_head st hst hv hq
  station_full st hst := by
    refine (Table.stationCount_le fun j q hq hqst => ?_).trans (h.station_full st hst)
    obtain ⟨r, hr, rfl⟩ := hm.rec?_some hq
    exact ⟨r, hr, (ha j r hr).station.symm.trans hqst⟩
  linked j q hq hl hd := by
    obtain ⟨r, hr, rfl⟩ := hm.rec?_some hq
    obtain ⟨hrl, hlinked⟩ := (ha j r hr).link hl
    obtain ⟨p, hp⟩ := h.linked j r hr hrl hd
    exact ⟨_, by rw [hlinked, hm.rec?, hp, Option.map_some]⟩
  chain j q hq := by
    obtain ⟨r, hr, rfl⟩ := hm.rec?_some hq
    refine (Table.depth_le (fun i p hp hl => ?_) 5 j).trans (h.chain j r hr)
    obtain ⟨x, hx, rfl⟩ := hm.rec?_some hp
    obtain ⟨hxl, hlinked⟩ := (ha i x hx).link hl
    exact ⟨x, hx, hxl, hlinked.symm⟩

/-- What the new occupant of a slot, and the new head and queue of its station, must be for the change to keep the table's order: the
occupant is head exactly if the head reference names it and QUEUED exactly if the queue does, and the head changes only from or to the
slot itself or none. -/
structure Table.Fits (t : Table) (k st : Nat) (o : Option Record) (h : Nat) (q : List Nat) : Prop where
  slot : k ≠ 0
  station : st < 8
  old : ∀ r, t.rec? k = some r → r.station = st
  new : ∀ r, o = some r → r.Sound ∧ r.station = st ∧ (r.isHead = true ↔ h = k) ∧ (r.state = .queued ↔ k ∈ q)
  gone : o = none → h ≠ k ∧ k ∉ q
  head : h = t.head st ∨ ((h = k ∨ h = 0) ∧ (t.head st = k ∨ t.head st = 0))
  queue : ∀ j, j ≠ k → (j ∈ q ↔ j ∈ t.queue st)
  once : q.Nodup
  room : o.isSome = true → t.rec? k = none → t.stationCount st < 6

/-- One slot, head and queue change in a fitting way. What the caller still says: that an empty head reference goes with an empty
queue, that links name records, and that chains stay short. -/
theorem Table.Nearly.update {V' D' : Nat → Prop} {k st h : Nat} {o : Option Record} {q : List Nat}
    (hn : t.Nearly V D) (hu : t.Update t' k st o h q) (hf : t.Fits k st o h q)
    (hV : ∀ f, f ≠ st → V f → V' f) (hVst : q ≠ [] → h = 0 → V' st)
    (hlinked : ∀ j r, t'.rec? j = some r → r.holdsLink = true → ¬ D' j → ∃ p, t'.rec? r.start.linked = some p)
    (hchain : ∀ j r, t'.rec? j = some r → t'.depth 5 j ≤ 4) : t'.Nearly V' D' where
  slots := hu.slots.trans hn.slots
  heads := hu.heads.trans hn.heads
  queues := hu.queues.trans hn.queues
  sound j r hr := by
    rw [hu.rec?] at hr
    split at hr
    · exact (hf.new r hr).1
    · exact hn.sound j r hr
  head_iff j r hr := by
    rw [hu.rec?] at hr
    rw [hu.head]
    split at hr
    · next hj =>
      obtain ⟨-, hst, hhead, -⟩ := hf.new r hr
      rw [if_pos hst, hj, hhead]
    · next hj =>
      rw [hn.head_iff j r hr]
      obtain ⟨hpos, -⟩ := Table.rec?_some_pos hr
      split
      · next hst =>
        rw [hst]
        rcases hf.head with hh | ⟨hh, ho⟩
        · rw [hh]
        · exact ⟨fun he => by omega, fun he => by omega⟩
      · rfl
  head_rec f hlt hne := by
    rw [hu.head] at hne ⊢
    by_cases hfst : f = st
    · subst hfst
      rw [if_pos rfl] at hne ⊢
      by_cases hk : h = k
      · cases ho : o with
        | none => exact absurd hk (hf.gone ho).1
        | some r => exact ⟨r, by rw [hu.rec?, if_pos hk, ho], (hf.new r ho).2.1⟩
      · have hh : h = t.head f := by
          rcases hf.head with hh | ⟨hh, -⟩
          · exact hh
          · omega
        rw [hu.rec?, if_neg hk, hh]
        exact hn.head_rec f hlt (hh ▸ hne)
    · rw [if_neg hfst] at hne ⊢
      obtain ⟨r, hr, hrst⟩ := hn.head_rec f hlt hne
      have hk : t.head f ≠ k := fun hk => hfst (by rw [← hrst, hf.old r (hk ▸ hr)])
      exact ⟨r, by rw [hu.rec?, if_neg hk, hr], hrst⟩
  queue_iff j r hr := by
    rw [hu.rec?] at hr
    rw [hu.queue]
    split at hr
    · next hj =>
      obtain ⟨-, hst, -, hqueued⟩ := hf.new r hr
      rw [if_pos hst, hj, hqueued]
    · next hj =>
      rw [hn.queue_iff j r hr]
      split
      · next hst => rw [hst, hf.queue j hj]
      · rfl
  queue_rec f j hlt hj := by
    rw [hu.queue] at hj
    by_cases hjk : j = k
    · subst hjk
      have hfst : f = st := by
        by_contra hne
        rw [if_neg hne] at hj
        obtain ⟨r, hr, hrst⟩ := hn.queue_rec f j hlt hj
        exact hne (by rw [← hrst, hf.old r hr])
      rw [if_pos hfst] at hj
      cases ho : o with
      | none => exact absurd hj (hf.gone ho).2
      | some r => exact ⟨r, by rw [hu.rec?, if_pos rfl, ho], by rw [hfst, (hf.new r ho).2.1]⟩
    · rw [hu.rec?, if_neg hjk]
      refine hn.queue_rec f j hlt ?_
      split at hj
      · next hst => rw [hst, ← hf.queue j hjk]; exact hj
      · exact hj
  queue_once f := by
    rw [hu.queue]
    split
    · exact hf.once
    · exact hn.queue_once f
  queue_head f hlt hv hq := by
    rw [hu.queue] at hq
    rw [hu.head]
    by_cases hfst : f = st
    · subst hfst
      rw [if_pos rfl] at hq ⊢
      exact fun h0 => hv (hVst hq h0)
    · rw [if_neg hfst] at hq ⊢
      exact hn.queue_head f hlt (fun hv' => hv (hV f hfst hv')) hq
  station_full f hlt := by
    have hother : ∀ j r, j ≠ k → t'.rec? j = some r → r.station = f → ∃ p, t.rec? j = some p ∧ p.station = f :=
      fun j r hj hr hrf => ⟨r, by rwa [hu.rec?, if_neg hj] at hr, hrf⟩
    by_cases hnew : o.isSome = true ∧ t.rec? k = none ∧ f = st
    · obtain ⟨ho, hk, rfl⟩ := hnew
      have := Table.stationCount_le_succ hother
      have := hf.room ho hk
      omega
    · refine (Table.stationCount_le fun j r hr hrf => ?_).trans (hn.station_full f hlt)
      by_cases hj : j = k
      · subst hj
        rw [hu.rec?, if_pos rfl] at hr
        have hst := (hf.new r hr).2.1
        cases hk : t.rec? j with
        | none => exact absurd ⟨by simp [hr], hk, by rw [← hrf, hst]⟩ hnew
        | some p => exact ⟨p, rfl, by rw [hf.old p hk, ← hst, hrf]⟩
      · exact hother j r hj hr hrf
  linked := hlinked
  chain := hchain

/-- A change that brings no link: the new occupant, if there is one, holds a link only if the old one held it, and a slot is emptied
only where no record waits on it but those that may. -/
theorem Table.Nearly.update_unlinked {V' : Nat → Prop} {k st h : Nat} {o : Option Record} {q : List Nat}
    (hn : t.Nearly V D) (hu : t.Update t' k st o h q) (hf : t.Fits k st o h q)
    (hV : ∀ f, f ≠ st → V f → V' f) (hVst : q ≠ [] → h = 0 → V' st) (hno : ∀ r, o = some r → r.holdsLink = false)
    (hold : (t.rec? k).isSome = true)
    (hgone : o = none → ∀ j r, t.rec? j = some r → r.waitsOn k = true → D j) : t'.Nearly V' D := by
  have hsub : ∀ j r, t'.rec? j = some r → r.holdsLink = true → j ≠ k ∧ t.rec? j = some r := by
    intro j r hr hl
    rw [hu.rec?] at hr
    split at hr
    · simp [hno r hr] at hl
    · next hj => exact ⟨hj, hr⟩
  refine hn.update hu hf hV hVst (fun j r hr hl hd => ?_) fun j r hr => ?_
  · obtain ⟨-, hr⟩ := hsub j r hr hl
    obtain ⟨p, hp⟩ := hn.linked j r hr hl hd
    rw [hu.rec?]
    split
    · next hk =>
      cases ho : o with
      | none => exact absurd (hgone ho j r hr (by simp [Record.waitsOn, hl, hk])) hd
      | some p => exact ⟨p, rfl⟩
    · exact ⟨p, hp⟩
  · have hj : ∃ p, t.rec? j = some p := by
      rw [hu.rec?] at hr
      split at hr
      · next hj => exact Option.isSome_iff_exists.mp (hj ▸ hold)
      · exact ⟨r, hr⟩
    obtain ⟨p, hp⟩ := hj
    refine (Table.depth_le (fun i q hq hl => ?_) 5 j).trans (hn.chain j p hp)
    exact ⟨q, (hsub i q hq hl).2, hl, rfl⟩

end

end Sys2Proof.Machine
end


section
/-! SUPPORT. Placement, promotion and release of records: what each reads back as, and what it keeps of the table's consistency and
of the burner levels (R11, R12, R23, R25, R43, R75). -/

namespace Sys2Proof.Machine

/-! ### Heads, queues and updates -/

theorem Table.head_setHead {t : Table} (ht : t.heads.length = 8) {st : Nat} (hst : st < 8) (k f : Nat) :
    (t.setHead st k).head f = if f = st then k else t.head f := by
  split
  · next h => rw [h, Table.head_setHead_same t k (by omega)]
  · next h => exact Table.head_setHead_other t k h

theorem Table.queue_setQueue {t : Table} (ht : t.queues.length = 8) {st : Nat} (hst : st < 8) (q : List Nat) (f : Nat) :
    (t.setQueue st q).queue f = if f = st then q else t.queue f := by
  split
  · next h => rw [h, Table.queue_setQueue_same t q (by omega)]
  · next h => exact Table.queue_setQueue_other t q h

@[simp] theorem Table.setHead_slots (t : Table) (st k) : (t.setHead st k).slots = t.slots := rfl
@[simp] theorem Table.setQueue_slots (t : Table) (st q) : (t.setQueue st q).slots = t.slots := rfl
@[simp] theorem Table.setHead_heads_length (t : Table) (st k) : (t.setHead st k).heads.length = t.heads.length :=
  List.length_set
@[simp] theorem Table.setHead_queues (t : Table) (st k) : (t.setHead st k).queues = t.queues := rfl
@[simp] theorem Table.setQueue_heads (t : Table) (st q) : (t.setQueue st q).heads = t.heads := rfl
@[simp] theorem Table.setQueue_queues_length (t : Table) (st q) : (t.setQueue st q).queues.length = t.queues.length :=
  List.length_set

/-- The shape of a table of the part: 48 slots, eight stations. -/
structure Table.Shaped (t : Table) : Prop where
  slots : t.slots.length = Config.slotCount
  heads : t.heads.length = 8
  queues : t.queues.length = 8

theorem Table.Nearly.shaped {t : Table} {V D : Nat → Prop} (h : t.Nearly V D) : t.Shaped := ⟨h.slots, h.heads, h.queues⟩
theorem Table.Consistent.shaped {t : Table} (h : t.Consistent) : t.Shaped := ⟨h.slots, h.heads, h.queues⟩

namespace Table.Update

variable {t t' : Table} {k st h : Nat} {o : Option Record} {q : List Nat}

theorem shaped (hu : t.Update t' k st o h q) (ht : t.Shaped) : t'.Shaped :=
  ⟨hu.slots.trans ht.slots, hu.heads.trans ht.heads, hu.queues.trans ht.queues⟩

theorem rec?_same (hu : t.Update t' k st o h q) : t'.rec? k = o := by rw [hu.rec?, if_pos rfl]
theorem rec?_other (hu : t.Update t' k st o h q) {j : Nat} (hj : j ≠ k) : t'.rec? j = t.rec? j := by rw [hu.rec?, if_neg hj]
theorem head_same (hu : t.Update t' k st o h q) : t'.head st = h := by rw [hu.head, if_pos rfl]
theorem head_other (hu : t.Update t' k st o h q) {f : Nat} (hf : f ≠ st) : t'.head f = t.head f := by rw [hu.head, if_neg hf]
theorem queue_same (hu : t.Update t' k st o h q) : t'.queue st = q := by rw [hu.queue, if_pos rfl]
theorem queue_other (hu : t.Update t' k st o h q) {f : Nat} (hf : f ≠ st) : t'.queue f = t.queue f := by
  rw [hu.queue, if_neg hf]

/-- The new occupant of the slot changes once more. -/
theorem modify {r : Record} (hu : t.Update t' k st (some r) h q) (f : Record → Record) :
    t.Update (t'.modify k f) k st (some (f r)) h q where
  slots := (t'.modify_length k f).trans hu.slots
  heads := by rw [Table.modify_heads, hu.heads]
  queues := by rw [Table.modify_queues, hu.queues]
  rec? j := by
    rw [Table.rec?_modify, hu.rec?_same]
    split
    · rfl
    · next hj => exact hu.rec?_other hj
  head f := by rw [Table.head_modify, hu.head]
  queue f := by rw [Table.queue_modify, hu.queue]

end Table.Update

/-- The record of a slot is replaced, and with it the head and the queue of its station. -/
theorem Table.put_update {t : Table} (ht : t.Shaped) {k st : Nat} (hst : st < 8) (hk : k ∈ allSlots) (o : Option Record)
    (h : Nat) (q : List Nat) : t.Update (((t.setQueue st q).setHead st h).put k o) k st o h q where
  slots := by simp
  heads := by simp
  queues := by simp
  rec? j := by
    have hkb := mem_allSlots.mp hk
    split
    · next hj =>
      rw [hj]
      exact Table.rec?_put_same _ o (by omega) (by simp only [setHead_slots, setQueue_slots, ht.slots]; omega)
    · next hj => rw [Table.rec?_put_other _ o hj]; rfl
  head f := by rw [Table.head_put, Table.head_setHead (by simp [ht.heads]) hst, Table.head_setQueue]
  queue f := by rw [Table.queue_put, Table.queue_setHead, Table.queue_setQueue ht.queues hst]

theorem Table.setHead_self (t : Table) (st : Nat) : t.setHead st (t.head st) = t := by
  unfold Table.setHead Table.head
  congr 1
  rw [List.getD_eq_getElem?_getD]
  exact List.ext_getElem? fun i => by grind

theorem Table.setQueue_self (t : Table) (st : Nat) : t.setQueue st (t.queue st) = t := by
  unfold Table.setQueue Table.queue
  congr 1
  rw [List.getD_eq_getElem?_getD]
  exact List.ext_getElem? fun i => by grind

theorem Table.modify_eq_put {t : Table} {k : Nat} {r : Record} (h : t.rec? k = some r) (f : Record → Record) :
    t.modify k f = t.put k (some (f r)) := by
  rw [Table.modify, h]

/-- A station's head reference moves to a slot whose record changes. -/
theorem Table.setHead_modify_update {t : Table} (ht : t.Shaped) {k st : Nat} {r : Record} (hst : st < 8) (hr : t.rec? k = some r)
    (f : Record → Record) : t.Update ((t.setHead st k).modify k f) k st (some (f r)) k (t.queue st) := by
  have hput := Table.put_update ht hst (Table.mem_allSlots_of_rec? ht.slots hr) (some (f r)) k (t.queue st)
  rwa [Table.setQueue_self, ← Table.modify_eq_put (t := t.setHead st k) hr] at hput

/-- A station's queue changes, and one of its records. -/
theorem Table.setQueue_modify_update {t : Table} (ht : t.Shaped) {k st : Nat} {r : Record} (hst : st < 8) (hr : t.rec? k = some r)
    (q : List Nat) (f : Record → Record) : t.Update ((t.setQueue st q).modify k f) k st (some (f r)) (t.head st) q := by
  have hput := Table.put_update ht hst (Table.mem_allSlots_of_rec? ht.slots hr) (some (f r)) (t.head st) q
  have hself := Table.setHead_self (t.setQueue st q) st
  rw [Table.head_setQueue] at hself
  rwa [hself, ← Table.modify_eq_put (t := t.setQueue st q) hr] at hput

/-! ### Levels (R11) -/

/-- The levels follow the heads of all stations but one. -/
structure State.LevelsBut (s : State) (st : Nat) : Prop where
  six : s.burners.length = 6
  level : ∀ f, f < 6 → f ≠ st → (s.burner f).level = s.table.levelOf f
  source : ∀ f, f < 6 → f ≠ st → (s.burner f).level ≠ 0 → (s.burner f).source = s.table.head f

theorem State.LevelsFollow.but {s : State} (h : s.LevelsFollow) (st : Nat) : s.LevelsBut st :=
  ⟨h.six, fun f hf _ => h.level f hf, fun f hf _ => h.source f hf⟩

theorem State.burner_congr {s t : State} (hb : t.burners = s.burners) (f : Nat) : t.burner f = s.burner f := by
  rw [State.burner, hb]; rfl

/-- The levels follow as long as burners, heads and the levels these give are the same. -/
theorem State.LevelsFollow.congr {s t : State} (h : s.LevelsFollow) (hb : t.burners = s.burners)
    (hl : ∀ f, f < 6 → t.table.levelOf f = s.table.levelOf f) (hh : ∀ f, f < 6 → t.table.head f = s.table.head f) :
    t.LevelsFollow where
  six := by rw [hb, h.six]
  level f hf := by rw [State.burner_congr hb, hl f hf, h.level f hf]
  source f hf := by rw [State.burner_congr hb, hh f hf]; exact h.source f hf

theorem State.LevelsFollow.of_eq {s t : State} (h : s.LevelsFollow) (hb : t.burners = s.burners) (ht : t.table = s.table) :
    t.LevelsFollow :=
  h.congr hb (fun _ _ => by rw [ht]) (fun _ _ => by rw [ht])

theorem Table.Mapped.levelOf {t t' : Table} {g : Nat → Record → Record} (hm : t.Mapped t' g) {st : Nat}
    (hg : ∀ r, t.headRec? st = some r → (g (t.head st) r).givenLevel = r.givenLevel) : t'.levelOf st = t.levelOf st := by
  rw [Table.levelOf_eq, Table.levelOf_eq, Table.headRec?, hm.head, hm.rec?]
  cases hr : t.rec? (t.head st) with
  | none => simp [Table.headRec?, hr]
  | some r => simpa [Table.headRec?, hr] using hg r hr

/-- Changes of records that give the same levels leave the burners at the levels that the heads give. -/
theorem State.LevelsFollow.mapped {s t : State} {g : Nat → Record → Record} (h : s.LevelsFollow) (hb : t.burners = s.burners)
    (hm : s.table.Mapped t.table g) (hg : ∀ st r, s.table.headRec? st = some r → (g (s.table.head st) r).givenLevel = r.givenLevel) :
    t.LevelsFollow :=
  h.congr hb (fun f _ => hm.levelOf (hg f)) (fun f _ => hm.head f)

theorem Table.Update.levelOf_other {t t' : Table} {k st h : Nat} {o : Option Record} {q : List Nat} (hu : t.Update t' k st o h q)
    {f : Nat} (hf : f ≠ st) (hk : t.head f ≠ k) : t'.levelOf f = t.levelOf f := by
  rw [Table.levelOf_eq, Table.levelOf_eq, Table.headRec?, hu.head_other hf, hu.rec?_other hk]; rfl

/-- A change at one station leaves the burners of the others at the levels that their heads give. -/
theorem State.LevelsBut.update {s t : State} {k st h : Nat} {o : Option Record} {q : List Nat} (hl : s.LevelsBut st)
    (hb : t.burners = s.burners) (hu : s.table.Update t.table k st o h q) (hk : ∀ f, f ≠ st → s.table.head f ≠ k) :
    t.LevelsBut st where
  six := by rw [hb, hl.six]
  level f hf hne := by rw [State.burner_congr hb, hu.levelOf_other hne (hk f hne), hl.level f hf hne]
  source f hf hne := by rw [State.burner_congr hb, hu.head_other hne]; exact hl.source f hf hne

/-- The same where the station's own head stays and is not the slot that changes. -/
theorem State.LevelsFollow.update {s t : State} {k st : Nat} {o : Option Record} {q : List Nat} (hl : s.LevelsFollow)
    (hb : t.burners = s.burners) (hu : s.table.Update t.table k st o (s.table.head st) q) (hk : ∀ f, s.table.head f ≠ k) :
    t.LevelsFollow := by
  have hhead : ∀ f, t.table.head f = s.table.head f := fun f => by rw [hu.head]; split <;> simp_all
  refine hl.congr hb (fun f _ => ?_) (fun f _ => hhead f)
  rw [Table.levelOf_eq, Table.levelOf_eq, Table.headRec?, hhead f, hu.rec?_other (hk f)]; rfl

theorem Record.givenLevel_startGrace (u : SettingsUnit) (r : Record) : (r.startGrace u).givenLevel = r.givenLevel := rfl

theorem Record.alike_startGrace (u : SettingsUnit) (r : Record) : r.Alike (r.startGrace u) where
  station := rfl
  isHead := rfl
  queued := Iff.rfl
  sound h := ⟨h.station, h.some_stage, h.few_stages, h.durations, h.index, h.head_index, h.last, h.left, h.keep_ended⟩
  link h := ⟨h, rfl⟩

/-- Following a station's head starts a grace on its record, or changes no record. -/
theorem follow_mapped (s : State) (st : Nat) :
    ∃ g, s.table.Mapped (s.follow st).table g ∧ ∀ j r, g j r = r ∨ g j r = r.startGrace s.settings := by
  by_cases h : s.lights st
  · refine ⟨_, by rw [follow_table_lights h]; exact Table.modify_mapped _ _ _, fun j r => ?_⟩
    by_cases hj : j = s.table.head st
    · exact .inr (if_pos hj)
    · exact .inl (if_neg hj)
  · exact ⟨_, by rw [follow_table_steady h]; exact .refl _, fun j r => .inl rfl⟩

theorem follow_levelOf (s : State) (st f : Nat) : (s.follow st).table.levelOf f = s.table.levelOf f := by
  obtain ⟨g, hm, hg⟩ := follow_mapped s st
  refine hm.levelOf fun r _ => ?_
  rcases hg (s.table.head f) r with h | h <;> rw [h]
  exact Record.givenLevel_startGrace _ _

theorem follow_head (s : State) (st f : Nat) : (s.follow st).table.head f = s.table.head f := by
  obtain ⟨g, hm, -⟩ := follow_mapped s st
  exact hm.head f

theorem follow_nearly {s : State} {V D : Nat → Prop} (h : s.table.Nearly V D) (st : Nat) : (s.follow st).table.Nearly V D := by
  obtain ⟨g, hm, hg⟩ := follow_mapped s st
  refine h.mapped hm fun j r _ => ?_
  rcases hg j r with h | h <;> rw [h]
  · exact .refl r
  · exact Record.alike_startGrace _ r

/-- Following the head of the one station left brings its burner to the level that the head gives. -/
theorem follow_levels {s : State} {st : Nat} (h : s.LevelsBut st) : (s.follow st).LevelsFollow := by
  have hlevel := follow_levelOf s st
  have hhead := follow_head s st
  cases hgas : isGas st with
  | false =>
    have hst : ∀ f, f < 6 → f ≠ st := fun f hf he => by simp [isGas, ← he, hf] at hgas
    rw [follow_electric hgas]
    exact ⟨h.six, fun f hf => h.level f hf (hst f hf), fun f hf => h.source f hf (hst f hf)⟩
  | true =>
    have hlen : st < s.burners.length := by rw [h.six]; simpa [isGas] using hgas
    have hburner : (s.follow st).burner st
        = { level := s.table.levelOf st, source := if s.table.levelOf st = 0 then 0 else s.table.head st } := by
      simp [State.burner, follow_burners hgas, hlen]
    refine ⟨by simp [follow_burners hgas, h.six], fun f hf => ?_, fun f hf => ?_⟩
    · rw [hlevel]
      by_cases hfst : f = st
      · rw [hfst, hburner]
      · rw [follow_burner_other s hfst, h.level f hf hfst]
    · rw [hhead]
      by_cases hfst : f = st
      · rw [hfst, hburner]
        exact fun hne => if_neg hne
      · rw [follow_burner_other s hfst]
        exact h.source f hf hfst

/-! ### A record made head (R23, R25, R43) -/

/-- The record RUNNING from the beginning of its first stage, its start condition spent, before any grace. -/
def Record.begun (r : Record) : Record := { r.spend.beginStage 1 with state := .running }

theorem Record.givenLevel_begun (r : Record) : r.begun.givenLevel = (r.stageAt? 1).elim 0 Stage.level := rfl

/-- The record as it enters RUNNING has begun, with a grace where its first stage burns (R12). -/
theorem Record.entering_eq (u : SettingsUnit) (r : Record) :
    r.entering u = if isGas r.station = true ∧ r.begun.givenLevel ≠ 0 then r.begun.startGrace u else r.begun := by
  have hlit : (isGas r.station && (r.stageAt? 1).any (fun g => decide (g.level ≠ 0))) = true
      ↔ isGas r.station = true ∧ r.begun.givenLevel ≠ 0 := by
    rw [Record.givenLevel_begun, Bool.and_eq_true]
    refine and_congr_right fun _ => ?_
    cases r.stageAt? 1 <;> simp
  by_cases h : isGas r.station = true ∧ r.begun.givenLevel ≠ 0
  · rw [if_pos h]
    simp only [Record.entering, hlit.mpr h, if_true]; rfl
  · rw [if_neg h]
    simp only [Record.entering, if_neg (mt hlit.mp h)]; rfl

/-- A record that is not head yet is sound as it begins. -/
theorem Record.Sound.begun {r : Record} (h : r.Sound) (hs : r.state = .armed ∨ r.state = .queued) : r.begun.Sound where
  station := h.station
  some_stage := h.some_stage
  few_stages := h.few_stages
  durations := h.durations
  index := h.some_stage
  head_index _ := Nat.le_refl 1
  last he := by simp [Record.begun] at he
  left _ := by
    obtain ⟨g, gs, hg⟩ := List.exists_cons_of_length_pos h.some_stage
    have hdur := h.durations g (by simp [hg])
    have hrem : r.begun.remaining = g.duration := by
      simp [Record.begun, Record.spend, Record.beginStage, Record.stageAt?, hg]
    rw [hrem]
    simp only [Config.minStage] at hdur
    omega
  keep_ended hk := by
    have := h.keep_ended hk
    rcases hs with hs | hs <;> simp [hs] at this

section

variable {s : State} {st k : Nat} {r : Record}

/-- What a record made head reads back as; a grace starts unless the burner was lit for this very slot. -/
theorem makeHead_update (hs : s.table.Shaped) (hst : st < 8) (hr : s.table.rec? k = some r) :
    ∃ q, s.table.Update (s.makeHead st k).table k st (some q) k (s.table.queue st)
      ∧ (q = r.begun ∨ q = r.begun.startGrace s.settings)
      ∧ (((s.burner st).level = 0 ∨ (s.burner st).source ≠ k) →
          q = if isGas st = true ∧ r.begun.givenLevel ≠ 0 then r.begun.startGrace s.settings else r.begun) := by
  let u := (s.withTable (s.table.setHead st k)).modify k Record.begun
  have hu : s.table.Update u.table k st (some r.begun) k (s.table.queue st) := Table.setHead_modify_update hs hst hr _
  have hhead : u.table.head st = k := hu.head_same
  have hlevel : u.table.levelOf st = r.begun.givenLevel := by
    rw [Table.levelOf_eq, Table.headRec?, hhead, hu.rec?_same, Option.elim_some]
  have hlights : u.lights st ↔ isGas st = true ∧ r.begun.givenLevel ≠ 0 ∧ ((s.burner st).level = 0 ∨ (s.burner st).source ≠ k) := by
    rw [State.lights, hlevel, hhead]; rfl
  show ∃ q, s.table.Update (u.follow st).table k st (some q) k (s.table.queue st) ∧ _
  by_cases h : u.lights st
  · rw [follow_table_lights h, hhead]
    obtain ⟨hgas, hne, -⟩ := hlights.mp h
    exact ⟨_, hu.modify _, .inr rfl, fun _ => (if_pos ⟨hgas, hne⟩).symm⟩
  · rw [follow_table_steady h]
    refine ⟨_, hu, .inl rfl, fun hfresh => (if_neg fun hlit => h (hlights.mpr ⟨hlit.1, hlit.2, hfresh⟩)).symm⟩

/-- A record made head of its station, for which the burner was not lit before, enters RUNNING. -/
theorem makeHead_enters (hs : s.table.Shaped) (hst : r.station < 8) (hr : s.table.rec? k = some r)
    (hfresh : (s.burner r.station).level = 0 ∨ (s.burner r.station).source ≠ k) :
    s.table.Update (s.makeHead r.station k).table k r.station (some (r.entering s.settings)) k (s.table.queue r.station) := by
  obtain ⟨q, hu, -, hq⟩ := makeHead_update hs hst hr
  rwa [hq hfresh, ← Record.entering_eq] at hu

theorem makeHead_eq (s : State) (st k : Nat) :
    s.makeHead st k = { s with table := (s.makeHead st k).table, burners := (s.makeHead st k).burners } := by
  rw [State.makeHead, follow_eq]; rfl

theorem makeHead_burner_other (s : State) (k : Nat) {st f : Nat} (h : f ≠ st) : (s.makeHead st k).burner f = s.burner f :=
  follow_burner_other _ h

/-- Its burner takes the level of its first stage. -/
theorem makeHead_level (hs : s.table.Shaped) (hst : st < 8) (hr : s.table.rec? k = some r) (hgas : isGas st = true)
    (hb : s.burners.length = 6) : ((s.makeHead st k).burner st).level = (r.stageAt? 1).elim 0 Stage.level := by
  obtain ⟨q, hu, hq, -⟩ := makeHead_update hs hst hr
  have hlen : st < s.burners.length := by rw [hb]; simpa [isGas] using hgas
  have hlevel := follow_level (s := (s.withTable (s.table.setHead st k)).modify k Record.begun) hgas hlen
  rw [← follow_levelOf _ st] at hlevel
  refine hlevel.trans ?_
  show (s.makeHead st k).table.levelOf st = _
  rw [Table.levelOf_eq, Table.headRec?, hu.head_same, hu.rec?_same, Option.elim_some, ← Record.givenLevel_begun]
  rcases hq with rfl | rfl <;> rfl

/-- A station without a head whose record, ARMED or at the front of its queue, is made head keeps the table's order. -/
theorem makeHead_nearly {V D : Nat → Prop} (hn : s.table.Nearly V D) (hr : s.table.rec? k = some r) (h0 : s.table.head r.station = 0)
    (hs : r.state = .armed ∨ r.state = .queued) {t' : Table} {q : Record} {rest : List Nat}
    (hu : s.table.Update t' k r.station (some q) k rest) (hq : q = r.begun ∨ q = r.begun.startGrace s.settings)
    (hrest : ∀ j, j ≠ k → (j ∈ rest ↔ j ∈ s.table.queue r.station)) (honce : rest.Nodup) (hk : k ∉ rest) :
    t'.Nearly (fun f => V f ∧ f ≠ r.station) D := by
  have hsound : r.begun.Sound := (hn.sound k r hr).begun hs
  have hk0 : k ≠ 0 := Nat.pos_iff_ne_zero.mp (Table.rec?_some_pos hr).1
  refine hn.update_unlinked hu ⟨hk0, hn.station_lt hr, fun p hp => ?_, fun p hp => ?_, nofun, .inr ⟨.inl rfl, .inr h0⟩,
    hrest, honce, fun _ h => by simp [hr] at h⟩ (fun f hf hv => ⟨hv, hf⟩) (fun _ h => absurd h hk0) (fun p hp => ?_) (by simp [hr])
    (nofun)
  · rw [Option.some.inj (hr.symm.trans hp)]
  · obtain rfl := Option.some.inj hp
    rcases hq with rfl | rfl
    · exact ⟨hsound, rfl, by simp [Record.isHead, Record.begun], by simp [Record.begun, hk]⟩
    · exact ⟨(Record.alike_startGrace _ _).sound hsound, rfl, by simp [Record.isHead, Record.begun, Record.startGrace],
        by simp [Record.begun, Record.startGrace, hk]⟩
  · obtain rfl := Option.some.inj hp
    rcases hq with rfl | rfl <;> rfl

end

/-! ### Placement (R23) -/

section

variable {s : State} {k : Nat} {r : Record}

theorem place_head (hr : s.table.rec? k = some r) (h0 : s.table.head r.station = 0) : s.place k = s.makeHead r.station k := by
  simp only [State.place, hr, if_pos h0]

/-- What a record that joins a queue reads back as. -/
theorem place_queue (hs : s.table.Shaped) (hst : r.station < 8) (hr : s.table.rec? k = some r) (h0 : s.table.head r.station ≠ 0) :
    s.table.Update (s.place k).table k r.station (some r.joining) (s.table.head r.station) (s.table.queue r.station ++ [k])
      ∧ (s.place k).burners = s.burners := by
  refine ⟨?_, by simp only [State.place, hr, if_neg h0]; rfl⟩
  simp only [State.place, hr, if_neg h0]
  exact Table.setQueue_modify_update hs hst hr _ _

/-- A placement changes its slot, and the head or the queue of its station, alone. -/
theorem place_update (hs : s.table.Shaped) (hst : r.station < 8) (hr : s.table.rec? k = some r) :
    ∃ q h l, s.table.Update (s.place k).table k r.station (some q) h l ∧ q.station = r.station
      ∧ (q.state = .running ∨ q.state = .queued) := by
  by_cases h0 : s.table.head r.station = 0
  · obtain ⟨q, hu, hq, -⟩ := makeHead_update hs hst hr
    rw [place_head hr h0]
    refine ⟨q, _, _, hu, ?_⟩
    rcases hq with rfl | rfl <;> exact ⟨rfl, .inl rfl⟩
  · exact ⟨_, _, _, (place_queue hs hst hr h0).1, rfl, .inr rfl⟩

/-- Placing an ARMED record keeps the table's order. -/
theorem place_nearly {D : Nat → Prop} (hn : s.table.Nearly noSlot D) (hr : s.table.rec? k = some r) (ha : r.state = .armed) :
    (s.place k).table.Nearly noSlot D := by
  have hst := hn.station_lt hr
  have hk : k ∉ s.table.queue r.station := fun hm => by simp [(hn.queue_iff k r hr).mpr hm] at ha
  have hhead : s.table.head r.station ≠ k := fun he => by simpa [Record.isHead, ha] using (hn.head_iff k r hr).mpr he
  by_cases h0 : s.table.head r.station = 0
  · obtain ⟨q, hu, hq, -⟩ := makeHead_update hn.shaped hst hr
    rw [place_head hr h0]
    have := makeHead_nearly hn hr h0 (.inl ha) hu hq (fun _ _ => Iff.rfl) (hn.queue_once _) hk
    exact { this with queue_head := fun f hf _ => this.queue_head f hf fun hv => hv.1 }
  · obtain ⟨hu, -⟩ := place_queue hn.shaped hst hr h0
    have hsound := hn.sound k r hr
    refine hn.update_unlinked hu ⟨Nat.pos_iff_ne_zero.mp (Table.rec?_some_pos hr).1, hst, fun p hp => ?_, fun p hp => ?_,
      nofun, .inl rfl, fun j hj => by simp [hj], List.nodup_append_comm.mp (by simp [hk, hn.queue_once]),
      fun _ h => by simp [hr] at h⟩ (fun f _ hv => hv) (fun _ h => absurd h h0) (fun p hp => ?_) (by simp [hr]) (nofun)
    · rw [Option.some.inj (hr.symm.trans hp)]
    · obtain rfl := Option.some.inj hp
      exact ⟨⟨hsound.station, hsound.some_stage, hsound.few_stages, hsound.durations, hsound.index,
        fun h => by simp [Record.isHead, Record.joining] at h, fun h => by simp [Record.joining] at h,
        fun h => by simp [Record.joining] at h, fun h => absurd (hsound.keep_ended h) (by simp [ha])⟩,
        rfl, by simp [Record.isHead, Record.joining, hhead], by simp [Record.joining]⟩
    · obtain rfl := Option.some.inj hp
      rfl

/-- Placing a record that is not head keeps the burners at the levels that the heads give. -/
theorem place_levels {V D : Nat → Prop} (hn : s.table.Nearly V D) (hl : s.LevelsFollow) (hr : s.table.rec? k = some r)
    (ha : r.state = .armed) : (s.place k).LevelsFollow := by
  have hst := hn.station_lt hr
  have hne : ∀ f, f ≠ r.station → s.table.head f ≠ k := fun f => hn.head_ne hr
  by_cases h0 : s.table.head r.station = 0
  · rw [place_head hr h0]
    exact follow_levels ((hl.but r.station).update rfl (Table.setHead_modify_update hn.shaped hst hr _) hne)
  · obtain ⟨hu, hb⟩ := place_queue hn.shaped hst hr h0
    refine hl.update hb hu fun f => ?_
    by_cases hf : f = r.station
    · rw [hf]
      exact fun he => by simpa [Record.isHead, ha] using (hn.head_iff k r hr).mpr he
    · exact hne f hf

end

end Sys2Proof.Machine
end


section
/-! SUPPORT. Promotion, several placements, release, and the ends of stages and records: what each keeps of the table's consistency
and of the burner levels (R25, R27, R43, R51, R52, R75). -/

namespace Sys2Proof.Machine

/-! ### Weaker and stronger -/

theorem Table.Nearly.mono {t : Table} {V V' D D' : Nat → Prop} (h : t.Nearly V D) (hV : ∀ f, V f → V' f) (hD : ∀ k, D k → D' k) :
    t.Nearly V' D' :=
  { h with
    queue_head := fun st hst hv => h.queue_head st hst fun hv' => hv (hV st hv')
    linked := fun k r hr hl hd => h.linked k r hr hl fun hd' => hd (hD k hd') }

theorem Table.Nearly.to_consistent {t : Table} (h : t.Nearly noSlot noSlot) : t.Consistent :=
  h.consistent (fun _ _ hv => hv.elim) (fun _ _ hd => hd.elim)

/-- A change of state that keeps the table consistent, and with it the burners at the levels that the heads give: what every step
does. -/
structure State.Keeps (s t : State) : Prop where
  table : s.table.Consistent → t.table.Consistent
  levels : s.table.Consistent → s.LevelsFollow → t.LevelsFollow

namespace State.Keeps

theorem of_eq {s t : State} (ht : t.table = s.table) (hb : t.burners = s.burners) : s.Keeps t :=
  ⟨fun h => ht ▸ h, fun _ h => h.of_eq hb ht⟩

theorem refl (s : State) : s.Keeps s := of_eq rfl rfl

theorem trans {s t u : State} (h : s.Keeps t) (h' : t.Keeps u) : s.Keeps u :=
  ⟨fun hc => h'.table (h.table hc), fun hc hl => h'.levels (h.table hc) (h.levels hc hl)⟩

/-- Other blocks change as well. -/
theorem then_eq {s t u : State} (h : s.Keeps t) (ht : u.table = t.table) (hb : u.burners = t.burners) : s.Keeps u :=
  h.trans (of_eq ht hb)

/-- The argument may use that the table is consistent. -/
theorem assuming {s t : State} (h : s.table.Consistent → s.Keeps t) : s.Keeps t :=
  ⟨fun hc => (h hc).table hc, fun hc hl => (h hc).levels hc hl⟩

theorem ite {s t u : State} {c : Prop} [Decidable c] (h : c → s.Keeps t) (g : ¬ c → s.Keeps u) : s.Keeps (if c then t else u) := by
  split
  · next hc => exact h hc
  · next hc => exact g hc

theorem foldl {α : Type} {f : State → α → State} (h : ∀ (s : State) (a : α), s.Keeps (f s a)) (l : List α) (s : State) :
    s.Keeps (l.foldl f s) := by
  induction l generalizing s with
  | nil => exact refl s
  | cons a l ih => exact (h s a).trans (ih (f s a))

end State.Keeps

/-- The record of a slot is head of its station exactly if it controls it. -/
theorem Table.Nearly.head_ne_of_not_isHead {t : Table} {V D : Nat → Prop} (h : t.Nearly V D) {k : Nat} {r : Record}
    (hr : t.rec? k = some r) (hh : r.isHead = false) (f : Nat) : t.head f ≠ k := by
  by_cases hf : f = r.station
  · rw [hf]
    exact fun he => by simp [(h.head_iff k r hr).mpr he] at hh
  · exact h.head_ne hr hf

/-! ### One record changed in place -/

theorem Table.modify_update {t : Table} (ht : t.Shaped) {k st : Nat} {r : Record} (hst : st < 8) (hr : t.rec? k = some r)
    (f : Record → Record) : t.Update (t.modify k f) k st (some (f r)) (t.head st) (t.queue st) := by
  have := Table.setHead_modify_update ht hst hr f
  exact { this with
    rec? := fun j => by
      rw [Table.rec?_modify, hr]; rfl
    slots := t.modify_length k f
    heads := by rw [Table.modify_heads]
    queues := by rw [Table.modify_queues]
    head := fun g => by rw [Table.head_modify]; split <;> simp_all
    queue := fun g => by rw [Table.queue_modify]; split <;> simp_all }

/-- One record replaced by one that stands alike keeps the table's order. -/
theorem Table.Nearly.modify {t : Table} {V D : Nat → Prop} (h : t.Nearly V D) {k : Nat} {r : Record} (hr : t.rec? k = some r)
    {f : Record → Record} (ha : r.Alike (f r)) : (t.modify k f).Nearly V D := by
  refine h.mapped (Table.modify_mapped t k f) fun j p hp => ?_
  split
  · next hj =>
    obtain rfl := Option.some.inj (hr.symm.trans (hj ▸ hp))
    exact ha
  · exact .refl p

/-- A record changed to one that gives the same level leaves the burners right. -/
theorem State.LevelsFollow.modify {s : State} (h : s.LevelsFollow) {k : Nat} {r : Record} (hr : s.table.rec? k = some r)
    {f : Record → Record} (hf : (f r).givenLevel = r.givenLevel) : (s.modify k f).LevelsFollow := by
  refine h.mapped rfl (Table.modify_mapped s.table k f) fun st p hp => ?_
  split
  · next hj =>
    rw [Table.headRec?, hj] at hp
    obtain rfl := Option.some.inj (hr.symm.trans hp)
    exact hf
  · rfl

/-- A record changed in place to one that stands alike, its station followed. -/
theorem keeps_modify_follow {s : State} {k : Nat} {r : Record} (hr : s.table.rec? k = some r) {f : Record → Record}
    (ha : r.Alike (f r)) : s.Keeps ((s.modify k f).follow r.station) where
  table hc := (follow_nearly ((hc.nearly noSlot).modify hr ha) _).to_consistent
  levels hc hl := by
    have hn := hc.nearly noSlot
    exact follow_levels ((hl.but r.station).update rfl (Table.modify_update hc.shaped (hn.station_lt hr) hr f) fun g => hn.head_ne hr)

/-- A record changed in place to one that stands alike and gives the same level. -/
theorem keeps_modify_at {s : State} {k : Nat} {r : Record} (hr : s.table.rec? k = some r) {f : Record → Record}
    (ha : r.Alike (f r)) (hf : (f r).givenLevel = r.givenLevel) : s.Keeps (s.modify k f) :=
  ⟨fun hc => ((hc.nearly noSlot).modify hr ha).to_consistent, fun _ hl => hl.modify hr hf⟩

/-- A change that leaves every record alike and its level the same. -/
theorem keeps_modify (s : State) (k : Nat) {f : Record → Record} (ha : ∀ r : Record, r.Alike (f r))
    (hf : ∀ r : Record, (f r).givenLevel = r.givenLevel) : s.Keeps (s.modify k f) := by
  cases hr : s.table.rec? k with
  | none => exact .of_eq (by simp [Table.modify, hr]) rfl
  | some r => exact keeps_modify_at hr (ha r) (hf r)

/-! ### A head that leaves, and promotion (R25) -/

/-- Without a queue the station has no head after a promotion, and no record changes. -/
theorem promote_empty_table {s : State} (hs : s.table.Shaped) {st : Nat} (hst : st < 8) (hq : s.table.queue st = []) :
    (s.promote st).table = s.table.setHead st 0 := by
  simp only [State.promote, hq]
  refine follow_table_steady fun hl => hl.2.1 ?_
  rw [State.withTable_table, Table.levelOf_eq, Table.headRec?, Table.head_setHead hs.heads hst, if_pos rfl, Table.rec?_zero,
    Option.elim_none]

theorem promote_cons {s : State} {st n : Nat} {rest : List Nat} (hq : s.table.queue st = n :: rest) :
    s.promote st = (s.withTable (s.table.setQueue st rest)).makeHead st n := by
  simp only [State.promote, hq]

/-- What the first queued record reads back as once promoted. -/
theorem promote_cons_update {s : State} (hs : s.table.Shaped) {st n : Nat} {rest : List Nat} {r : Record} (hst : st < 8)
    (hq : s.table.queue st = n :: rest) (hr : s.table.rec? n = some r) :
    ∃ q, s.table.Update (s.promote st).table n st (some q) n rest
      ∧ (q = r.begun ∨ q = r.begun.startGrace s.settings)
      ∧ (((s.burner st).level = 0 ∨ (s.burner st).source ≠ n) →
          q = if isGas st = true ∧ r.begun.givenLevel ≠ 0 then r.begun.startGrace s.settings else r.begun) := by
  let u := s.withTable (s.table.setQueue st rest)
  have hshaped : u.table.Shaped := ⟨hs.slots, hs.heads, by simp [u, hs.queues]⟩
  have hqueue := fun f => Table.queue_setQueue hs.queues hst rest f
  obtain ⟨q, hu, hq', hfresh⟩ := makeHead_update (s := u) hshaped hst hr
  rw [promote_cons hq]
  refine ⟨q, ⟨hu.slots, hu.heads, by rw [hu.queues]; simp [u], hu.rec?, hu.head, fun f => ?_⟩, hq', hfresh⟩
  rw [hu.queue]
  split
  · next hf => exact (hqueue st).trans (if_pos rfl)
  · next hf => exact (hqueue f).trans (if_neg hf)

/-- A promotion at a station without a head keeps the table's order. -/
theorem promote_nearly {s : State} {st : Nat} {D : Nat → Prop} (hst : st < 8)
    (h : (s.table.setHead st 0).Nearly (fun f => f = st) D) : (s.promote st).table.Nearly noSlot D := by
  have hs : s.table.Shaped := ⟨h.slots, by simpa using h.heads, h.queues⟩
  have h0 : (s.table.setHead st 0).head st = 0 := by rw [Table.head_setHead hs.heads hst, if_pos rfl]
  cases hq : s.table.queue st with
  | nil =>
    rw [promote_empty_table hs hst hq]
    exact { h with
      queue_head := fun f hf _ hne => h.queue_head f hf (fun he => hne (by rw [he, Table.queue_setHead, hq])) hne }
  | cons n rest =>
    have hmem : n ∈ (s.table.setHead st 0).queue st := by rw [Table.queue_setHead, hq]; exact List.mem_cons_self
    obtain ⟨r, hr, rfl, hqueued, -⟩ := h.of_mem_queue hst hmem
    obtain ⟨q, hu, hqq, -⟩ := promote_cons_update hs hst hq hr
    have honce := h.queue_once r.station
    rw [Table.queue_setHead, hq] at honce
    obtain ⟨hnot, hnodup⟩ := List.nodup_cons.mp honce
    have hu' : (s.table.setHead r.station 0).Update (s.promote r.station).table n r.station (some q) n rest :=
      ⟨hu.slots, by simpa using hu.heads, hu.queues, hu.rec?, fun f => by
        rw [hu.head, Table.head_setHead hs.heads hst]; split <;> rfl, hu.queue⟩
    refine (makeHead_nearly (s := s.withTable (s.table.setHead r.station 0)) h hr h0 (.inr hqueued) hu' hqq (fun j hj => ?_) hnodup
      hnot).mono (fun f hf => hf.2 hf.1) (fun _ hd => hd)
    rw [State.withTable_table, Table.queue_setHead, hq, List.mem_cons, or_iff_right hj]

/-- A promotion brings the station's burner to the level of its new head. -/
theorem promote_levels {s : State} {st : Nat} (hs : s.table.Shaped) (hst : st < 8) (hl : s.LevelsBut st)
    (hq : ∀ n, n ∈ s.table.queue st → ∃ r, s.table.rec? n = some r ∧ ∀ f, f ≠ st → s.table.head f ≠ n) :
    (s.promote st).LevelsFollow := by
  have hother : ∀ (n f : Nat), f ≠ st → (s.table.setHead st n).head f = s.table.head f := fun n f hf =>
    Table.head_setHead_other _ _ hf
  unfold State.promote
  split
  · refine follow_levels ⟨hl.six, fun f hf hne => ?_, fun f hf hne => ?_⟩
    · rw [State.withTable_table, Table.levelOf_eq, Table.headRec?, hother 0 f hne, Table.rec?_setHead]
      exact (hl.level f hf hne).trans (Table.levelOf_eq _ _)
    · rw [State.withTable_table, hother 0 f hne]
      exact hl.source f hf hne
  · next n rest heq =>
    obtain ⟨r, hr, hne⟩ := hq n (by rw [heq]; exact List.mem_cons_self)
    have hshaped : (s.table.setQueue st rest).Shaped := ⟨hs.slots, hs.heads, by simpa using hs.queues⟩
    have hbut : (s.withTable (s.table.setQueue st rest)).LevelsBut st :=
      ⟨hl.six, hl.level, hl.source⟩
    exact follow_levels (hbut.update rfl (Table.setHead_modify_update hshaped hst hr _) hne)

/-- The head of a station leaves: its slot is taken by a record that controls nothing, or emptied, and the head reference is cleared.
The queue waits for a promotion. -/
theorem Table.Nearly.leave {t t' : Table} {V D : Nat → Prop} (hn : t.Nearly V D) {k : Nat} {r : Record} {o : Option Record}
    (hr : t.rec? k = some r) (hhead : t.head r.station = k) (hu : t.Update t' k r.station o 0 (t.queue r.station))
    (ho : ∀ q, o = some q → q.Sound ∧ q.station = r.station ∧ q.isHead = false ∧ q.state ≠ .queued ∧ q.holdsLink = false)
    (hgone : o = none → ∀ j p, t.rec? j = some p → p.waitsOn k = true → D j) :
    t'.Nearly (fun f => V f ∨ f = r.station) D := by
  have hk0 : k ≠ 0 := Nat.pos_iff_ne_zero.mp (Table.rec?_some_pos hr).1
  have hnot : k ∉ t.queue r.station := fun hm => by
    obtain ⟨-, -, -, -, hne⟩ := hn.of_mem_queue (hn.station_lt hr) hm
    exact hne hhead
  refine hn.update_unlinked hu ⟨hk0, hn.station_lt hr, fun p hp => ?_, fun q hq => ?_, fun _ => ⟨hk0.symm, hnot⟩,
    .inr ⟨.inr rfl, .inl hhead⟩, fun _ _ => Iff.rfl, hn.queue_once _, fun _ h => by simp [hr] at h⟩
    (fun _ _ hv => .inl hv) (fun _ _ => .inr rfl) (fun q hq => (ho q hq).2.2.2.2) (by simp [hr]) hgone
  · rw [Option.some.inj (hr.symm.trans hp)]
  · obtain ⟨hsound, hst, hnothead, hnotqueued, -⟩ := ho q hq
    exact ⟨hsound, hst, by simp [hnothead, hk0.symm], by simp [hnotqueued, hnot]⟩

/-! ### Several placements (R23) -/

/-- The slots hold ARMED records. -/
def Table.AllArmed (t : Table) (ks : List Nat) : Prop := ∀ k ∈ ks, ∃ r, t.rec? k = some r ∧ r.state = .armed

theorem place_rec?_other {s : State} (hs : s.table.Shaped) {j k : Nat} (hst : ∀ r, s.table.rec? k = some r → r.station < 8)
    (hj : j ≠ k) : (s.place k).table.rec? j = s.table.rec? j := by
  cases hr : s.table.rec? k with
  | none => simp [State.place, hr]
  | some r =>
    obtain ⟨q, h, l, hu, -⟩ := place_update hs (hst r hr) hr
    exact hu.rec?_other hj

theorem Table.AllArmed.after_place {s : State} {V D : Nat → Prop} {k : Nat} {ks : List Nat} (hn : s.table.Nearly V D)
    (ha : s.table.AllArmed ks) (hk : k ∉ ks) : (s.place k).table.AllArmed ks := fun j hj => by
  have hjk : j ≠ k := fun he => hk (by rwa [← he])
  rw [place_rec?_other hn.shaped (fun r hr => hn.station_lt hr) hjk]
  exact ha j hj

theorem placeAll_nearly {s : State} {D : Nat → Prop} {ks : List Nat} (hn : s.table.Nearly noSlot D) (hnodup : ks.Nodup)
    (ha : s.table.AllArmed ks) : (s.placeAll ks).table.Nearly noSlot D := by
  induction ks generalizing s with
  | nil => exact hn
  | cons k ks ih =>
    obtain ⟨hk, hks⟩ := List.nodup_cons.mp hnodup
    obtain ⟨r, hr, hra⟩ := ha k List.mem_cons_self
    exact ih (place_nearly hn hr hra) hks (Table.AllArmed.after_place hn (fun j hj => ha j (List.mem_cons_of_mem _ hj)) hk)

theorem placeAll_levels {s : State} {D : Nat → Prop} {ks : List Nat} (hn : s.table.Nearly noSlot D) (hl : s.LevelsFollow)
    (hnodup : ks.Nodup) (ha : s.table.AllArmed ks) : (s.placeAll ks).LevelsFollow := by
  induction ks generalizing s with
  | nil => exact hl
  | cons k ks ih =>
    obtain ⟨hk, hks⟩ := List.nodup_cons.mp hnodup
    obtain ⟨r, hr, hra⟩ := ha k List.mem_cons_self
    exact ih (place_nearly hn hr hra) (place_levels hn hl hr hra) hks
      (Table.AllArmed.after_place hn (fun j hj => ha j (List.mem_cons_of_mem _ hj)) hk)

/-- A slot that is not among those placed keeps its record. -/
theorem placeAll_rec?_other {s : State} {D : Nat → Prop} {ks : List Nat} (hn : s.table.Nearly noSlot D) (hnodup : ks.Nodup)
    (ha : s.table.AllArmed ks) {j : Nat} (hj : j ∉ ks) : (s.placeAll ks).table.rec? j = s.table.rec? j := by
  induction ks generalizing s with
  | nil => rfl
  | cons k ks ih =>
    obtain ⟨hk, hks⟩ := List.nodup_cons.mp hnodup
    obtain ⟨r, hr, hra⟩ := ha k List.mem_cons_self
    obtain ⟨hjk, hjks⟩ := (List.mem_cons.not.trans not_or).mp hj
    exact (ih (place_nearly hn hr hra) hks (Table.AllArmed.after_place hn (fun j hj => ha j (List.mem_cons_of_mem _ hj)) hk)
      hjks).trans (place_rec?_other hn.shaped (fun r hr => hn.station_lt hr) hjk)

/-! ### Release (R75) -/

/-- A record whose link has been released: its offset counts from its whole length. -/
def Record.released (r : Record) : Record := { r with start := { r.start with linked := 0, count := r.start.offset } }

/-- The table once the records that wait on slot k have been released, none placed yet. -/
def State.unlink (s : State) (k : Nat) : State :=
  (s.table.slotsWhere (fun r => r.waitsOn k)).foldl (fun s d => s.modify d Record.released) s

theorem release_eq (s : State) (k : Nat) :
    s.release k = (s.unlink k).placeAll (s.table.slotsWhere (fun r => r.waitsOn k && r.start.offset == 0)) := rfl

theorem Record.waitsOn_armed {r : Record} {k : Nat} (h : r.waitsOn k = true) : r.state = .armed := by
  simp only [Record.waitsOn, Record.holdsLink, Bool.and_eq_true, beq_iff_eq] at h
  exact h.1.1.1

theorem Record.alike_released {r : Record} : r.Alike r.released where
  station := rfl
  isHead := rfl
  queued := Iff.rfl
  sound h := ⟨h.station, h.some_stage, h.few_stages, h.durations, h.index, h.head_index, h.last, h.left, h.keep_ended⟩
  link h := by simp [Record.released, Record.holdsLink] at h

theorem unlink_mapped (s : State) (k : Nat) :
    s.table.Mapped (s.unlink k).table
      (fun j r => if j ∈ s.table.slotsWhere (fun r => r.waitsOn k) then r.released else r) :=
  foldl_modify_mapped Record.released _ (Table.slotsWhere_nodup _ _) s

theorem unlink_eq (s : State) (k : Nat) : s.unlink k = s.withTable (s.unlink k).table := foldl_modify_eq _ _ s

theorem unlink_nearly {s : State} {V D : Nat → Prop} (hn : s.table.Nearly V D) (k : Nat) : (s.unlink k).table.Nearly V D := by
  refine hn.mapped (unlink_mapped s k) fun j r _ => ?_
  split
  · exact Record.alike_released
  · exact .refl r

theorem unlink_levels {s : State} (hl : s.LevelsFollow) (k : Nat) : (s.unlink k).LevelsFollow := by
  refine hl.mapped (by rw [unlink_eq]; rfl) (unlink_mapped s k) fun st r _ => ?_
  split <;> rfl

/-- The records that fall due at a release are ARMED. -/
theorem unlink_allArmed (s : State) (k : Nat) :
    (s.unlink k).table.AllArmed (s.table.slotsWhere (fun r => r.waitsOn k && r.start.offset == 0)) := by
  intro j hj
  obtain ⟨-, r, hr, hw⟩ := Table.mem_slotsWhere.mp hj
  rw [Bool.and_eq_true] at hw
  rw [(unlink_mapped s k).rec?, hr]
  have harmed := Record.waitsOn_armed hw.1
  refine ⟨_, rfl, ?_⟩
  split <;> exact harmed

theorem release_nearly {s : State} {D : Nat → Prop} (hn : s.table.Nearly noSlot D) (k : Nat) :
    (s.release k).table.Nearly noSlot D :=
  release_eq s k ▸ placeAll_nearly (unlink_nearly hn k) (Table.slotsWhere_nodup _ _) (unlink_allArmed s k)

theorem release_levels {s : State} {D : Nat → Prop} (hn : s.table.Nearly noSlot D) (hl : s.LevelsFollow) (k : Nat) :
    (s.release k).LevelsFollow :=
  release_eq s k ▸ placeAll_levels (unlink_nearly hn k) (unlink_levels hl k) (Table.slotsWhere_nodup _ _) (unlink_allArmed s k)

theorem keeps_release (s : State) (k : Nat) : s.Keeps (s.release k) :=
  ⟨fun hc => (release_nearly (hc.nearly noSlot) k).to_consistent, fun hc hl => release_levels (hc.nearly noSlot) hl k⟩

/-- Placing ARMED records, each once. -/
theorem keeps_placeAll {s : State} {ks : List Nat} (hnodup : ks.Nodup) (ha : s.table.AllArmed ks) : s.Keeps (s.placeAll ks) :=
  ⟨fun hc => (placeAll_nearly (hc.nearly noSlot) hnodup ha).to_consistent,
    fun hc hl => placeAll_levels (hc.nearly noSlot) hl hnodup ha⟩

theorem keeps_place {s : State} {k : Nat} {r : Record} (hr : s.table.rec? k = some r) (ha : r.state = .armed) :
    s.Keeps (s.place k) :=
  ⟨fun hc => (place_nearly (hc.nearly noSlot) hr ha).to_consistent, fun hc hl => place_levels (hc.nearly noSlot) hl hr ha⟩

/-- A record that does not wait on the slot is left alone by the release. -/
theorem release_rec?_other {s : State} {D : Nat → Prop} (hn : s.table.Nearly noSlot D) {j k : Nat}
    (hj : ∀ r, s.table.rec? j = some r → r.waitsOn k = false) : (s.release k).table.rec? j = s.table.rec? j := by
  have hnot : ∀ p : Record → Bool, (∀ r, p r = true → r.waitsOn k = true) → j ∉ s.table.slotsWhere p := fun p hp hm => by
    obtain ⟨-, r, hr, hpr⟩ := Table.mem_slotsWhere.mp hm
    exact absurd (hp r hpr) (by simp [hj r hr])
  rw [release_eq, placeAll_rec?_other (unlink_nearly hn k) (Table.slotsWhere_nodup _ _) (unlink_allArmed s k)
    (hnot _ fun r hr => (Bool.and_eq_true_iff.mp hr).1), (unlink_mapped s k).rec?]
  simp [hnot _ fun r hr => hr]

/-- Where no record waits on the slot a release does nothing. -/
theorem release_none {s : State} {k : Nat} (h : ∀ j r, s.table.rec? j = some r → r.waitsOn k = false) : s.release k = s := by
  have hnil : ∀ p : Record → Bool, (∀ r, p r = true → r.waitsOn k = true) → s.table.slotsWhere p = [] := fun p hp => by
    refine List.eq_nil_iff_forall_not_mem.mpr fun j hj => ?_
    obtain ⟨-, r, hr, hpr⟩ := Table.mem_slotsWhere.mp hj
    exact absurd (hp r hpr) (by simp [h j r hr])
  rw [release_eq, State.unlink, hnil _ (fun r hr => hr), hnil _ fun r hr => (Bool.and_eq_true_iff.mp hr).1]
  rfl

end Sys2Proof.Machine
end


section
/-! SUPPORT. The Record Engine's and the Burner Drive's work at a boundary keeps the table consistent and the burners at the levels of
the heads (R13, R14, R45 to R56, R68, R69, R76). -/

namespace Sys2Proof.Machine

/-! ### The end of a stage (R51) -/

/-- The record in its next stage; ALERT raises STAGE_END. -/
def Record.advance (r : Record) : Record :=
  let q := r.beginStage (r.stage + 1)
  if (r.stageAt? r.stage).elim false Stage.second then q.raise .stageEnd else q

theorem nextStage_eq {s : State} {k : Nat} {r : Record} (hr : s.table.rec? k = some r) (j : Nat) :
    s.nextStage k r j = ((s.modify k Record.advance).follow r.station).dropLeaving r.station (s.table.elements r.station) j := by
  have hadvance : (if (r.stageAt? r.stage).elim false Stage.second then
      (s.modify k (fun r => r.beginStage (r.stage + 1))).raise k .stageEnd else s.modify k (fun r => r.beginStage (r.stage + 1)))
      = s.modify k Record.advance := by
    split
    · next h =>
      rw [State.raise, State.modify_modify]
      exact State.modify_congr hr (by simp only [Record.advance, h, if_true])
    · next h => exact State.modify_congr hr (by simp only [Record.advance, h, Bool.false_eq_true, if_false])
  simp only [State.nextStage, hadvance]

theorem Record.stageAt?_mem {r : Record} {i : Nat} {g : Stage} (h : r.stageAt? i = some g) : g ∈ r.stages :=
  List.mem_of_getElem? (Record.stageAt?_some h)

theorem Record.stageAt?_isSome {r : Record} {i : Nat} (h0 : 1 ≤ i) (hi : i ≤ r.stages.length) : ∃ g, r.stageAt? i = some g := by
  rw [Record.stageAt?, if_neg (by omega)]
  exact ⟨_, List.getElem?_eq_getElem (by omega)⟩

/-- The next stage of a sound RUNNING record is one of its list. -/
theorem Record.alike_beginNext {r : Record} (hs : r.state = .running) (hn : r.hasNextStage = true) :
    r.Alike (r.beginStage (r.stage + 1)) := by
  have hlt : r.stage < r.stages.length := by simpa [Record.hasNextStage] using hn
  refine ⟨rfl, by simp [Record.isHead, Record.beginStage, hs], Iff.rfl, fun h => ?_, fun h => ⟨h, rfl⟩⟩
  obtain ⟨g, hg⟩ := Record.stageAt?_isSome (r := r) (Nat.le_add_left 1 r.stage) hlt
  have hdur := h.durations g (Record.stageAt?_mem hg)
  have hrem : (r.beginStage (r.stage + 1)).remaining = g.duration := by simp [Record.beginStage, hg]
  refine ⟨h.station, h.some_stage, h.few_stages, h.durations, hlt, fun _ => Nat.le_add_left 1 _, fun he => ?_, fun _ => ?_, h.keep_ended⟩
  · exact absurd (hs.symm.trans he) (by simp)
  · rw [hrem]
    simp only [Config.minStage] at hdur
    omega

/-- A flag of the record is changed, and nothing else. -/
theorem Record.alike_alerts (r : Record) (a : BitVec 6) : r.Alike { r with alerts := a } where
  station := rfl
  isHead := rfl
  queued := Iff.rfl
  sound h := ⟨h.station, h.some_stage, h.few_stages, h.durations, h.index, h.head_index, h.last, h.left, h.keep_ended⟩
  link h := ⟨h, rfl⟩

theorem Record.alike_advance {r : Record} (hs : r.state = .running) (hn : r.hasNextStage = true) : r.Alike r.advance := by
  have h := Record.alike_beginNext hs hn
  unfold Record.advance
  dsimp only
  split
  · exact h.trans (Record.alike_alerts _ _)
  · exact h

/-! ### The end of a record (R27, R52) -/

/-- The end action of the current stage is its second choice: KEEP on the last stage (R41). -/
def Record.keeps (r : Record) : Bool := (r.stageAt? r.stage).elim false Stage.second

/-- The record ENDED, with RECORD_END raised. -/
def Record.finished (r : Record) : Record := { r with state := .ended, remaining := 0, keep := r.keeps }.raise .recordEnd

/-- The state once the record has ended and its station's head has been kept or has left. -/
def State.finished (s : State) (k : Nat) (r : Record) : State :=
  if r.keeps then (s.modify k Record.finished).follow r.station else (s.modify k Record.finished).promote r.station

theorem endRecord_eq {s : State} {k : Nat} {r : Record} (hr : s.table.rec? k = some r) (j : Nat) :
    s.endRecord k r j = ((s.finished k r).release k).dropLeaving r.station (s.table.elements r.station) j := by
  have hended : (s.modify k (fun q => { q with state := .ended, remaining := 0, keep := r.keeps })).raise k .recordEnd
      = s.modify k Record.finished := by
    rw [State.raise, State.modify_modify]
    exact State.modify_congr hr rfl
  rw [State.finished, ← hended]
  rfl

theorem Record.sound_finished {r : Record} (h : r.Sound) (hs : r.state = .running) (hn : r.hasNextStage = false) : r.finished.Sound := by
  have hge : r.stages.length ≤ r.stage := by simpa [Record.hasNextStage] using hn
  have hhead := h.head_index (by simp [Record.isHead, hs])
  refine ⟨h.station, h.some_stage, h.few_stages, h.durations, h.index, fun _ => hhead, fun _ => ?_, fun hl => ?_, fun _ => rfl⟩
  · exact Nat.le_antisymm h.index hge
  · simp [Record.finished, Record.raise] at hl

theorem Record.alike_finished {r : Record} (hs : r.state = .running) (hn : r.hasNextStage = false) (hk : r.keeps = true) :
    r.Alike r.finished where
  station := rfl
  isHead := by simp [Record.isHead, Record.finished, Record.raise, hs, hk]
  queued := by simp [Record.finished, Record.raise, hs]
  sound h := Record.sound_finished h hs hn
  link h := by simp [Record.holdsLink, Record.finished, Record.raise] at h

theorem keeps_finished {s : State} {k : Nat} {r : Record} (hr : s.table.rec? k = some r) (hs : r.state = .running)
    (hn : r.hasNextStage = false) : s.Keeps (s.finished k r) := by
  unfold State.finished
  cases hk : r.keeps with
  | true => exact keeps_modify_follow hr (Record.alike_finished hs hn hk)
  | false =>
    refine .assuming fun hc => ?_
    have hnear := hc.nearly noSlot
    have hst := hnear.station_lt hr
    have hleft : s.table.Update ((s.table.modify k Record.finished).setHead r.station 0) k r.station (some r.finished) 0
        (s.table.queue r.station) := by
      have hu := Table.modify_update hc.shaped hst hr Record.finished
      exact { hu with
        heads := by rw [Table.setHead_heads_length, hu.heads]
        head := fun f => by
          rw [Table.head_setHead (by rw [Table.modify_heads, hc.heads]) hst]; split <;> simp_all }
    have hshaped := (Table.modify_update hc.shaped hst hr Record.finished).shaped hc.shaped
    have hleave := hnear.leave hr (hc.head_of_isHead hr (by simp [Record.isHead, hs])) hleft (fun q hq => by
      obtain rfl := Option.some.inj hq
      exact ⟨Record.sound_finished (hc.sound k r hr) hs hn, rfl, by simp [Record.isHead, Record.finished, Record.raise, hk],
        by simp [Record.finished, Record.raise], by simp [Record.holdsLink, Record.finished, Record.raise]⟩) nofun
    refine ⟨fun _ => (promote_nearly hst (hleave.mono (fun f hf => hf.resolve_left id) fun _ hd => hd)).to_consistent,
      fun _ hl => promote_levels hshaped hst ?_ fun n hn => ?_⟩
    · exact (hl.but r.station).update rfl (Table.modify_update hc.shaped hst hr _) fun f => hnear.head_ne hr
    · rw [State.modify_table, Table.queue_modify] at hn
      obtain ⟨q, hq, hqst, -, -⟩ := hnear.of_mem_queue hst hn
      refine ⟨(if n = k then r.finished else q), ?_, fun f hf => ?_⟩
      · rw [State.modify_table, Table.rec?_modify, hr, hq]
        split <;> rfl
      · rw [State.modify_table, Table.head_modify]
        exact hnear.head_ne hq (by rwa [hqst])

theorem keeps_endStage {s : State} {k : Nat} {r : Record} (hr : s.table.rec? k = some r) (hs : r.state = .running) (j : Nat) :
    s.Keeps (s.endStage k j) := by
  simp only [State.endStage, hr]
  refine .ite (fun hn => ?_) fun hn => ?_
  · rw [nextStage_eq hr]
    exact (keeps_modify_follow hr (Record.alike_advance hs hn)).then_eq rfl rfl
  · rw [endRecord_eq hr]
    exact ((keeps_finished hr hs (by simpa using hn)).trans (keeps_release _ k)).then_eq rfl rfl

/-! ### The countdown (R45 to R50) -/

/-- The second record is the first but for what a countdown changes. -/
def Record.SameCourse (r q : Record) : Prop :=
  q = { r with
    remaining := q.remaining, acc := q.acc, starve := q.starve, starvedRaised := q.starvedRaised, standing := q.standing
    alerts := q.alerts }

theorem Record.SameCourse.trans {r q p : Record} (h : r.SameCourse q) (h' : q.SameCourse p) : r.SameCourse p :=
  Eq.trans h' (by rw [h])

theorem Record.sameCourse_riseStanding (r : Record) : r.SameCourse r.riseStanding := by
  unfold Record.riseStanding
  split
  · split <;> rfl
  · rfl
  · rfl

theorem Record.riseStanding_remaining (r : Record) : r.riseStanding.remaining = r.remaining := by
  unfold Record.riseStanding
  split
  · split <;> rfl
  · rfl
  · rfl

/-- A starvation count changes the counter, the mark and the flag. -/
theorem Record.countStarvation_cases (limit : Nat) (f : Figures) (r : Record) :
    ∃ n b a, r.countStarvation limit f = { r with starve := n, starvedRaised := b, alerts := a } := by
  unfold Record.countStarvation
  split
  · generalize (if f.starved then min 60 (r.starve + 1) else 0) = n
    by_cases h : limit ≤ n ∧ r.starvedRaised = false
    · exact ⟨n, true, _, if_pos h⟩
    · exact ⟨n, r.starvedRaised, r.alerts, if_neg h⟩
  · exact ⟨r.starve, r.starvedRaised, r.alerts, rfl⟩

/-- A loss of time changes the time and the accumulator; without one nothing changes. -/
theorem Record.loseTime_cases (period : Bool) (f : Figures) (r : Record) :
    r.SameCourse (r.loseTime period f).1 ∧ (r.loseTime period f).1.remaining ≤ r.remaining
      ∧ ((r.loseTime period f).2 = false → (r.loseTime period f).1 = r) := by
  unfold Record.loseTime
  split
  · exact ⟨rfl, Nat.sub_le _ _, nofun⟩
  · split
    · split
      · exact ⟨rfl, Nat.sub_le _ _, nofun⟩
      · exact ⟨rfl, Nat.le_refl _, fun _ => rfl⟩
    · exact ⟨rfl, Nat.le_refl _, fun _ => rfl⟩
  · exact ⟨rfl, Nat.le_refl _, fun _ => rfl⟩

/-- A counted record keeps its course; its time falls, or stays where the boundary took none. -/
theorem counted_cases (s : State) (r : Record) :
    r.SameCourse (s.counted r).1 ∧ (s.counted r).1.remaining ≤ r.remaining
      ∧ ((s.counted r).2 = false → (s.counted r).1.remaining = r.remaining) := by
  let starved := if (s.time.atPeriod && !isGas r.station) = true then
    r.riseStanding.countStarvation (s.settings.value Config.starvationId) (s.app.figures r.station) else r.riseStanding
  have hstarved : r.SameCourse starved ∧ starved.remaining = r.remaining := by
    dsimp only [starved]
    split
    · obtain ⟨n, b, a, h⟩ := r.riseStanding.countStarvation_cases (s.settings.value Config.starvationId) (s.app.figures r.station)
      rw [h]
      exact ⟨(Record.sameCourse_riseStanding r).trans rfl, Record.riseStanding_remaining r⟩
    · exact ⟨Record.sameCourse_riseStanding r, Record.riseStanding_remaining r⟩
  obtain ⟨hcourse, hle, hsame⟩ := Record.loseTime_cases (s.time.atPeriod && !isGas r.station) (s.app.figures r.station) starved
  exact ⟨hstarved.1.trans hcourse, hle.trans_eq hstarved.2, fun h => (congrArg _ (hsame h)).trans hstarved.2⟩

/-- A record with time left can stand where it stood before the countdown. -/
theorem Record.SameCourse.alike {r q : Record} (h : r.SameCourse q) (h1 : 1 ≤ q.remaining) (hle : q.remaining ≤ max 1 r.remaining) :
    r.Alike q := by
  rw [h]
  refine ⟨rfl, rfl, Iff.rfl, fun hs => ?_, fun hl => ⟨hl, rfl⟩⟩
  refine ⟨hs.station, hs.some_stage, hs.few_stages, hs.durations, hs.index, hs.head_index, hs.last, fun hl => ⟨h1, ?_⟩, hs.keep_ended⟩
  have := (hs.left hl).2
  simp only [Config.maxStage] at this ⊢
  omega

theorem Record.SameCourse.givenLevel {r q : Record} (h : r.SameCourse q) : q.givenLevel = r.givenLevel := by
  rw [h]; rfl

/-! ### A stage that runs out -/

theorem Table.elements_eq (t : Table) (st : Nat) : t.elements st
    = (t.headRec? st).elim [] (fun r => if r.isHead then (r.shownStage?).elim [] (elementSet st) else []) := by
  unfold Table.elements
  split
  · next h => rw [h]; rfl
  · next h => rw [h]; rfl

/-- Changes of records that control the same heat leave a station's elements as they are. -/
theorem Table.Mapped.elements {t t' : Table} {g : Nat → Record → Record} (hm : t.Mapped t' g) {st : Nat}
    (hg : ∀ r, t.headRec? st = some r →
      (g (t.head st) r).isHead = r.isHead ∧ (g (t.head st) r).shownStage? = r.shownStage?) : t'.elements st = t.elements st := by
  rw [Table.elements_eq, Table.elements_eq, Table.headRec?, hm.head, hm.rec?]
  cases hr : t.rec? (t.head st) with
  | none => simp [Table.headRec?, hr]
  | some r =>
    obtain ⟨hhead, hshown⟩ := hg r hr
    simp [Table.headRec?, hr, hhead, hshown]

/-- The time left plays no part in the end of a stage. -/
theorem endStage_remaining (s : State) (k n j : Nat) :
    (s.modify k (fun r => { r with remaining := n })).endStage k j = s.endStage k j := by
  cases hr : s.table.rec? k with
  | none => rw [show s.modify k (fun r => { r with remaining := n }) = s from by simp [State.modify, Table.modify, hr]; rfl]
  | some r =>
    let q : Record := { r with remaining := n }
    let w := s.modify k (fun r => { r with remaining := n })
    have hq : w.table.rec? k = some q := by rw [State.rec?_modify, if_pos rfl, hr]; rfl
    have helements : w.table.elements r.station = s.table.elements r.station := by
      refine (Table.modify_mapped s.table k _).elements fun p _ => ?_
      split <;> exact ⟨rfl, rfl⟩
    have hadvance : w.modify k Record.advance = s.modify k Record.advance := (State.modify_modify s k _ _).trans rfl
    have hfinished : w.modify k Record.finished = s.modify k Record.finished := (State.modify_modify s k _ _).trans rfl
    have hw : w.endStage k j = if r.hasNextStage then w.nextStage k q j else w.endRecord k q j := by
      simp only [State.endStage, hq]; rfl
    refine hw.trans ?_
    simp only [State.endStage, hr]
    split
    · rw [nextStage_eq hq, nextStage_eq hr, hadvance, helements]
    · rw [endRecord_eq hq, endRecord_eq hr, State.finished, State.finished, hfinished, helements]
      rfl

/-- The state whose record k has been counted and has 1 ds left, whatever it has. -/
def State.pending1 (s : State) (k : Nat) (q : Record) : State := s.modify k (fun _ => { q with remaining := 1 })

/-- A stage that runs out ends as it would with time left: on a table in order. -/
theorem endStage_runs_out {s : State} {k : Nat} {r q : Record} (hr : s.table.rec? k = some r) (h0 : q.remaining = 0) (j : Nat) :
    (s.withTable (s.table.put k (some q))).endStage k j = (s.pending1 k q).endStage k j := by
  have hzero : { ({ q with remaining := 1 } : Record) with remaining := 0 } = q := by rw [← h0]
  rw [← endStage_remaining (s.pending1 k q) k 0 j, State.pending1, State.modify_modify, hzero, State.modify,
    Table.modify_eq_put hr]

/-- The check of a reminder sets a flag and a mark. -/
theorem Record.remind_cases (r : Record) : r.remind = r ∨ r.remind = { r.raise .reminder with reminderDone := true } := by
  unfold Record.remind
  split
  · exact .inr rfl
  · exact .inl rfl

theorem Record.alike_remind (r : Record) : r.Alike r.remind := by
  rcases r.remind_cases with h | h
  · rw [h]; exact .refl r
  · rw [h]
    exact ⟨rfl, rfl, Iff.rfl, fun h => ⟨h.station, h.some_stage, h.few_stages, h.durations, h.index, h.head_index, h.last, h.left,
      h.keep_ended⟩, fun h => ⟨h, rfl⟩⟩

theorem Record.givenLevel_remind (r : Record) : r.remind.givenLevel = r.givenLevel := by
  rcases r.remind_cases with h | h <;> rw [h]
  rfl

theorem keeps_settleFrom {s t : State} (h : s.Keeps t) (b : State) : s.Keeps (settleFrom b t) := by
  rw [settleFrom_eq]
  exact h.then_eq rfl rfl

theorem keeps_countRecord (s : State) (k : Nat) : s.Keeps (s.countRecord k) := by
  unfold State.countRecord
  cases hr : s.table.rec? k with
  | none => exact .refl s
  | some r =>
    refine .ite (fun hs => ?_) fun _ => .refl s
    have hrun : r.state = .running := by simpa using hs
    refine .assuming fun hc => keeps_settleFrom ?_ s
    obtain ⟨hcourse, hle, hsame⟩ := counted_cases s r
    have hleft := (hc.sound k r hr).left (.inl hrun)
    have hended : s.Keeps (if (s.counted r).2 && (s.counted r).1.remaining == 0 then
        (s.withTable (s.table.put k (some (s.counted r).1))).leaveStarted
          ((s.withTable (s.table.put k (some (s.counted r).1))).endStage k s.boundarySlice)
        else s.withTable (s.table.put k (some (s.counted r).1))) := by
      refine .ite (fun h => ?_) fun h => ?_
      · simp only [Bool.and_eq_true, beq_iff_eq] at h
        rw [endStage_runs_out hr h.2]
        let q : Record := { (s.counted r).1 with remaining := 1 }
        have hq : r.SameCourse q := hcourse.trans rfl
        have hrec : (s.pending1 k (s.counted r).1).table.rec? k = some q := by
          rw [State.pending1, State.rec?_modify, if_pos rfl, hr]; rfl
        have hqrun : q.state = .running := by rw [hq]; exact hrun
        exact ((keeps_modify_at hr (hq.alike (Nat.le_refl 1) (Nat.le_max_left 1 _)) hq.givenLevel).trans
          (keeps_endStage hrec hqrun _)).then_eq rfl rfl
      · have h1 : 1 ≤ (s.counted r).1.remaining := by
          by_contra hn
          have h2 : (s.counted r).2 = true := by
            by_contra hf
            have := hsame (by simpa using hf)
            omega
          exact h (by simp [h2]; omega)
        have := keeps_modify_at (f := fun _ => (s.counted r).1) hr (hcourse.alike h1 (by omega)) hcourse.givenLevel
        rwa [State.modify, Table.modify_eq_put hr] at this
    exact .ite (fun _ => hended.trans (keeps_modify _ k Record.alike_remind Record.givenLevel_remind)) fun _ => hended

/-! ### Flame judgement, the opening of a period, the clock's share -/

theorem Record.alike_loseFlame (r : Record) : r.Alike (r.loseFlame.raise .flameLost) := by
  have hstate : (r.loseFlame.raise .flameLost).state = if r.state = .running then .held else r.state := by
    cases hs : r.state <;> simp [Record.loseFlame, Record.raise, hs]
  refine ⟨rfl, ?_, ?_, fun h => ?_, fun h => ?_⟩
  · cases hs : r.state <;> simp [Record.isHead, hstate, hs]; rfl
  · cases hs : r.state <;> simp [hstate, hs]
  · refine ⟨h.station, h.some_stage, h.few_stages, h.durations, h.index, fun hh => ?_, fun he => ?_, fun hl => ?_, fun hk => ?_⟩
    · refine h.head_index ?_
      cases hs : r.state <;> simp_all [Record.isHead]
      exact hh
    · refine h.last ?_
      cases hs : r.state <;> simp_all
    · refine h.left ?_
      cases hs : r.state <;> simp_all
    · have hended : r.state = .ended := h.keep_ended hk
      rw [hstate, hended]; rfl
  · cases hs : r.state <;> simp_all [Record.holdsLink]
    exact ⟨h, rfl⟩

theorem Record.judged_cases (r : Record) (b : Bool) : ∃ g a, r.judged b = { r with grace := g, absent := a } := by
  unfold Record.judged
  split
  · exact ⟨_, r.absent, rfl⟩
  · exact ⟨r.grace, _, rfl⟩

theorem Record.alike_grace (r : Record) (g a : Nat) : r.Alike { r with grace := g, absent := a } where
  station := rfl
  isHead := rfl
  queued := Iff.rfl
  sound h := ⟨h.station, h.some_stage, h.few_stages, h.durations, h.index, h.head_index, h.last, h.left, h.keep_ended⟩
  link h := ⟨h, rfl⟩

theorem keeps_judgeStation (s : State) (st : Nat) : s.Keeps (s.judgeStation st) := by
  by_cases hl : (s.burner st).level = 0
  · rw [judgeStation_dark hl]; exact .refl s
  cases hr : s.table.headRec? st with
  | none => rw [judgeStation_no_head hr]; exact .refl s
  | some r =>
    refine .assuming fun hc => ?_
    have hst : r.station = st := by
      have hne : s.table.head st ≠ 0 := fun h0 => by simp [Table.headRec?, h0] at hr
      have hlt : st < 8 := by
        by_contra hn
        exact hne (Table.head_beyond hc.heads hn)
      obtain ⟨q, hq, hqst⟩ := hc.head_rec st hlt hne
      rwa [Option.some.inj (hr.symm.trans hq)]
    cases hlost : r.flameLostAt (s.time.lines.flm.getLsbD st) with
    | true =>
      rw [judgeStation_loss hl hr hlost, State.raise, State.modify_modify]
      have := keeps_modify_follow (f := fun r => r.loseFlame.raise .flameLost) hr (Record.alike_loseFlame r)
      rw [hst] at this
      exact keeps_settleFrom this s
    | false =>
      rw [judgeStation_no_loss hl hr hlost]
      obtain ⟨g, a, hj⟩ := r.judged_cases (s.time.lines.flm.getLsbD st)
      exact keeps_modify_at hr (hj ▸ Record.alike_grace r g a) (by rw [hj]; rfl)

theorem Record.openStanding_cases (r : Record) : ∃ x, r.openStanding = { r with standing := x } := by
  cases hs : r.state <;> simp only [Record.openStanding, hs]
  case running => exact ⟨.whole, rfl⟩
  case paused => exact ⟨.void, rfl⟩
  all_goals exact ⟨r.standing, by rw [← hs]⟩

theorem keeps_openPeriod (s : State) : s.Keeps s.openPeriod := by
  have halike : ∀ r : Record, r.Alike r.openStanding := fun r => by
    obtain ⟨x, h⟩ := r.openStanding_cases
    rw [h]
    exact ⟨rfl, rfl, Iff.rfl, fun h => ⟨h.station, h.some_stage, h.few_stages, h.durations, h.index, h.head_index, h.last, h.left,
      h.keep_ended⟩, fun h => ⟨h, rfl⟩⟩
  have hlevel : ∀ r : Record, r.openStanding.givenLevel = r.givenLevel := fun r => by
    obtain ⟨x, h⟩ := r.openStanding_cases
    rw [h]; rfl
  exact ((keeps_modify s _ halike hlevel).trans (keeps_modify _ _ halike hlevel)).then_eq rfl rfl

theorem Record.alike_countDown (r : Record) : r.Alike r.countDown where
  station := rfl
  isHead := rfl
  queued := Iff.rfl
  sound h := ⟨h.station, h.some_stage, h.few_stages, h.durations, h.index, h.head_index, h.last, h.left, h.keep_ended⟩
  link h := ⟨h, rfl⟩

/-- The state once the counts have fallen, nothing placed yet. -/
def State.countStarts (s : State) : State :=
  (allSlots.filter s.startCounts).foldl (fun s k => s.modify k Record.countDown) s

theorem countStarts_mapped (s : State) :
    s.table.Mapped s.countStarts.table (fun j r => if j ∈ allSlots.filter s.startCounts then r.countDown else r) :=
  foldl_modify_mapped Record.countDown _ (allSlots_nodup.filter _) s

theorem Record.waits_armed {r : Record} (h : r.countsStart = true ∨ r.waitsClock = true) : r.state = .armed := by
  rcases h with h | h
  · simp only [Record.countsStart, Bool.and_eq_true, beq_iff_eq] at h
    exact h.1
  · simp only [Record.waitsClock, Bool.and_eq_true, beq_iff_eq] at h
    exact h.1

/-- What falls due at a second boundary is ARMED. -/
theorem startDue_armed {s : State} {k : Nat} (h : s.startDue k = true) : ∃ r, s.table.rec? k = some r ∧ r.state = .armed := by
  unfold State.startDue at h
  cases hr : s.table.rec? k with
  | none => simp [hr] at h
  | some r =>
    simp only [hr, Option.elim_some, Bool.or_eq_true, Bool.and_eq_true, State.startCounts] at h
    exact ⟨r, rfl, Record.waits_armed (h.imp (fun h => h.1.2) fun h => h.1)⟩

theorem countStarts_allArmed (s : State) : s.countStarts.table.AllArmed (allSlots.filter s.startDue) := fun k hk => by
  obtain ⟨r, hr, ha⟩ := startDue_armed (List.mem_filter.mp hk).2
  rw [(countStarts_mapped s).rec?, hr]
  refine ⟨_, rfl, ?_⟩
  split <;> exact ha

theorem keeps_countStarts (s : State) : s.Keeps s.countStarts :=
  .foldl (fun s k => keeps_modify s k Record.alike_countDown fun _ => rfl) _ s

theorem advanceClock_onTable (s : State) :
    s.advanceClock.table = (s.countStarts.placeAll (allSlots.filter s.startDue)).table
      ∧ s.advanceClock.burners = (s.countStarts.placeAll (allSlots.filter s.startDue)).burners := ⟨rfl, rfl⟩

theorem keeps_advanceClock (s : State) : s.Keeps s.advanceClock :=
  ((keeps_countStarts s).trans (keeps_placeAll (allSlots_nodup.filter _) (countStarts_allArmed s))).then_eq
    (advanceClock_onTable s).1 (advanceClock_onTable s).2

/-! ### All the shares of a boundary's work -/

theorem keeps_perform (s : State) (w : Work) : s.Keeps (s.perform w) := by
  cases w with
  | count k => exact keeps_countRecord s k
  | judge st => exact keeps_judgeStation s st
  | openPeriod => exact keeps_openPeriod s
  | alertTick => exact .ite (fun _ => .of_eq rfl rfl) fun _ => .of_eq rfl rfl
  | clock => exact keeps_advanceClock s
  | refresh => exact .ite (fun _ => .of_eq rfl rfl) fun _ => .of_eq rfl rfl
  | loadEnd => exact .of_eq (by rw [show s.perform .loadEnd = s.endLoad from rfl, endLoad_eq]) (by
      rw [show s.perform .loadEnd = s.endLoad from rfl, endLoad_eq])
  | relays | closePeriod | syncTick | released _ => exact .of_eq rfl rfl

theorem keeps_takeOne (s : State) (w : Work) : s.Keeps (s.takeOne w) :=
  .ite (fun _ => (State.Keeps.of_eq (s := s) (t := s.withTodo (s.todo.filter (fun v => v != w))) rfl rfl).trans (keeps_perform _ w))
    fun _ => .refl s

theorem keeps_takeEngine (s : State) : s.Keeps s.takeEngine := (keeps_takeOne s _).trans (.foldl keeps_takeOne _ _)

theorem keeps_take (s : State) (w : Work) : s.Keeps (s.take w) := by
  refine .ite (fun _ => ?_) fun _ => .refl s
  cases w with
  | count k =>
    exact (State.Keeps.ite (fun _ => keeps_takeOne s _) fun _ => .refl s).trans (keeps_takeOne (s.readyToCount k) _)
  | openPeriod => exact (keeps_takeEngine s).trans (keeps_takeOne _ _)
  | refresh =>
    exact ((State.Keeps.ite (fun _ => .refl s) fun _ => keeps_takeEngine s).trans (keeps_takeOne _ _)).trans (keeps_takeOne _ _)
  | released _ => exact .refl s
  | judge _ | relays | closePeriod | alertTick | syncTick | clock | loadEnd => exact keeps_takeOne s _

theorem keeps_takeBoundary (s : State) (lines : Lines) (first later : List Work) : s.Keeps (s.takeBoundary lines first later) := by
  have hfinish : s.Keeps s.finishBoundary := .ite (fun _ => .refl s) fun _ => .foldl keeps_take _ s
  have hmade : s.Keeps (s.finishBoundary.makeBoundary lines) := hfinish.then_eq rfl rfl
  exact (hmade.trans (.foldl keeps_take first _)).trans (.foldl keeps_take _ _)

theorem keeps_crystalCycle (s : State) (lines : Lines) (first later : List Work) : s.Keeps (s.crystalCycle lines first later) :=
  .ite (fun _ => .refl s) fun _ => .ite (fun _ => keeps_takeBoundary s _ _ _) fun _ => .of_eq rfl rfl

end Sys2Proof.Machine
end


section
/-! SUPPORT. Retirement: what it reads back as, for one record and for a set, and what it keeps of the table's consistency and of the
burner levels (R29, R30, R36, R37, R39, R77). -/

namespace Sys2Proof.Machine

/-! ### Links broken (R77) -/

/-- The record of slot j once the record of slot k is retired: detached if it waited on it, unless it is exempt. -/
def Record.cut (k : Nat) (exempt : List Nat) (j : Nat) (r : Record) : Record :=
  if r.waitsOn k = true ∧ j ∉ exempt then r.detach else r

/-- A detached record waits for a START, with LINK_BROKEN raised. -/
theorem Record.detach_eq (r : Record) : r.detach = { r with
    start := { r.start with kind := .manual, count := 0, linked := 0 }, detached := true, alerts := r.alerts ||| 8#6 } := rfl

theorem Record.detach_holdsLink (r : Record) : r.detach.holdsLink = false := by
  simp [Record.holdsLink, Record.detach, Record.raise]

theorem Record.alike_detach (r : Record) : r.Alike r.detach where
  station := rfl
  isHead := rfl
  queued := Iff.rfl
  sound h := ⟨h.station, h.some_stage, h.few_stages, h.durations, h.index, h.head_index, h.last, h.left, h.keep_ended⟩
  link h := by simp [Record.detach_holdsLink] at h

theorem Record.alike_cut (k : Nat) (exempt : List Nat) (j : Nat) (r : Record) : r.Alike (r.cut k exempt j) := by
  unfold Record.cut
  split
  · exact r.alike_detach
  · exact .refl r

theorem Record.givenLevel_cut (k : Nat) (exempt : List Nat) (j : Nat) (r : Record) :
    (r.cut k exempt j).givenLevel = r.givenLevel := by
  unfold Record.cut
  split <;> rfl

/-- After the cut only exempt records wait on the slot. -/
theorem Record.cut_waitsOn {k : Nat} {exempt : List Nat} {j : Nat} {r : Record} (h : (r.cut k exempt j).waitsOn k = true) :
    j ∈ exempt := by
  unfold Record.cut at h
  split at h
  · simp [Record.waitsOn, Record.detach_holdsLink] at h
  · next hn => exact by_contra fun hj => hn ⟨h, hj⟩

theorem detachFrom_mapped {s : State} (hs : s.table.Shaped) (k : Nat) (exempt : List Nat) :
    s.table.Mapped (s.detachFrom k exempt).table (Record.cut k exempt) := by
  refine (foldl_modify_mapped Record.detach _ ((Table.slotsWhere_nodup _ _).filter _) s).congr fun j r hr => ?_
  refine if_congr ?_ rfl rfl
  simp [Table.mem_slotsWhere, Table.mem_allSlots_of_rec? hs.slots hr, hr]

theorem detachFrom_eq (s : State) (k : Nat) (exempt : List Nat) :
    s.detachFrom k exempt = s.withTable (s.detachFrom k exempt).table := foldl_modify_eq _ _ s

/-! ### One retirement (R29) -/

/-- A slot is emptied, and its station's queue changes. -/
theorem Table.remove_update {t : Table} (ht : t.Shaped) {k st : Nat} (hst : st < 8) (hk : k ∈ allSlots) (q : List Nat) :
    t.Update ((t.setQueue st q).put k none) k st none (t.head st) q := by
  have hput := Table.put_update ht hst hk none (t.head st) q
  have hself := Table.setHead_self (t.setQueue st q) st
  rw [Table.head_setQueue] at hself
  rwa [hself] at hput

/-- The state with the heat of a head given up and the links to its slot broken. -/
def State.released (s : State) (k : Nat) (r : Record) (exempt : List Nat) : State :=
  (if s.table.head r.station == k then s.dropElements (stationElements r.station) s.commandSlice else s).detachFrom k exempt

/-- The state with the slot EMPTY and out of its station's queue, its head reference not yet looked at. -/
def State.removed (s : State) (k : Nat) (r : Record) (exempt : List Nat) : State :=
  let d := s.released k r exempt
  (d.withTable ((d.table.setQueue r.station ((d.table.queue r.station).filter (fun q => q != k))).put k none)).forget k

theorem removed_table (s : State) (k : Nat) (r : Record) (exempt : List Nat) :
    (s.removed k r exempt).table = ((s.released k r exempt).table.setQueue r.station
      (((s.released k r exempt).table.queue r.station).filter (fun q => q != k))).put k none := rfl

theorem retire_absent {s : State} {k : Nat} (hr : s.table.rec? k = none) (promotes : Bool) (exempt : List Nat) :
    s.retire k promotes exempt = s := by
  simp only [State.retire, hr]

theorem retire_eq {s : State} {k : Nat} {r : Record} (hr : s.table.rec? k = some r) (promotes : Bool) (exempt : List Nat) :
    s.retire k promotes exempt = if s.table.head r.station = k then
        (if promotes then (s.removed k r exempt).promote r.station
          else ((s.removed k r exempt).withTable ((s.removed k r exempt).table.setHead r.station 0)).follow r.station)
      else s.removed k r exempt := by
  rw [State.retire, hr]
  exact if_congr beq_iff_eq rfl rfl

theorem released_mapped {s : State} (hs : s.table.Shaped) (k : Nat) (r : Record) (exempt : List Nat) :
    s.table.Mapped (s.released k r exempt).table (Record.cut k exempt) := by
  unfold State.released
  split
  · exact detachFrom_mapped (s := s.dropElements _ _) hs k exempt
  · exact detachFrom_mapped hs k exempt

/-- What a retirement changes beside the table, up to the head reference: the elements of a head are dropped, and notes go. -/
theorem removed_eq (s : State) (k : Nat) (r : Record) (exempt : List Nat) :
    s.removed k r exempt = { s with
      table := (s.removed k r exempt).table
      app := if s.table.head r.station = k then s.app.drop (stationElements r.station) s.commandSlice else s.app
      todo := s.todo.filter (fun w => w != .released k) } := by
  simp only [State.removed, State.released, State.forget]
  rw [detachFrom_eq]
  by_cases h : s.table.head r.station = k
  · simp only [h, beq_self_eq_true, if_true]; rfl
  · simp only [h, beq_eq_false_iff_ne.mpr h, if_false, Bool.false_eq_true]; rfl

section

variable {s : State} {V : Nat → Prop} {k : Nat} {r : Record} {exempt : List Nat}

theorem released_nearly {D : Nat → Prop} (hn : s.table.Nearly V D) : (s.released k r exempt).table.Nearly V D :=
  hn.mapped (released_mapped hn.shaped k r exempt) fun j q _ => q.alike_cut k exempt j

/-- The table with the slot emptied, seen from the table with the links broken. -/
theorem removed_update {D : Nat → Prop} (hn : s.table.Nearly V D) (hr : s.table.rec? k = some r) :
    (s.released k r exempt).table.Update (s.removed k r exempt).table k r.station none (s.table.head r.station)
      ((s.table.queue r.station).filter (fun q => q != k)) := by
  have hm := released_mapped hn.shaped k r exempt
  have hu : (s.released k r exempt).table.Update (s.removed k r exempt).table k r.station none
      ((s.released k r exempt).table.head r.station)
      (((s.released k r exempt).table.queue r.station).filter (fun q => q != k)) := by
    have hd := released_nearly (k := k) (r := r) (exempt := exempt) hn
    rw [removed_table]
    exact Table.remove_update hd.shaped (hn.station_lt hr) (hn.mem_allSlots hr) _
  rwa [hm.head, hm.queue] at hu

/-- Every record but the one retired, after the retirement, promotion aside. -/
theorem removed_rec? {D : Nat → Prop} (hn : s.table.Nearly V D) (hr : s.table.rec? k = some r) (j : Nat) :
    (s.removed k r exempt).table.rec? j = if j = k then none else (s.table.rec? j).map (Record.cut k exempt j) := by
  rw [(removed_update hn hr).rec?, (released_mapped hn.shaped k r exempt).rec?]

theorem removed_head {D : Nat → Prop} (hn : s.table.Nearly V D) (hr : s.table.rec? k = some r) (f : Nat) :
    (s.removed k r exempt).table.head f = s.table.head f := by
  rw [(removed_update hn hr).head, (released_mapped hn.shaped k r exempt).head]
  split <;> simp_all

/-- A slot stands in the queue of its record's station only. -/
theorem removed_queue {D : Nat → Prop} (hn : s.table.Nearly V D) (hr : s.table.rec? k = some r) (f : Nat) :
    (s.removed k r exempt).table.queue f = (s.table.queue f).filter (fun q => q != k) := by
  rw [(removed_update hn hr).queue, (released_mapped hn.shaped k r exempt).queue]
  split
  · next hf => rw [hf]
  · next hf =>
    refine (List.filter_eq_self.mpr fun q hq => ?_).symm
    rw [bne_iff_ne]
    rintro rfl
    by_cases hlt : f < 8
    · obtain ⟨p, hp, hpst, -, -⟩ := hn.of_mem_queue hlt hq
      exact hf (by rw [← hpst, Option.some.inj (hr.symm.trans hp)])
    · rw [Table.queue, List.getD_eq_getElem?_getD, List.getElem?_eq_none (by rw [hn.queues]; omega)] at hq
      simp at hq

/-- A record that is not head leaves. -/
theorem removed_nearly (hn : s.table.Nearly V (· ∈ exempt)) (hr : s.table.rec? k = some r) (hk : s.table.head r.station ≠ k) :
    (s.removed k r exempt).table.Nearly V (· ∈ exempt) := by
  have hm := released_mapped hn.shaped k r exempt
  have hd := released_nearly (r := r) (k := k) (exempt := exempt) hn
  have hr' : (s.released k r exempt).table.rec? k = some (r.cut k exempt k) := by rw [hm.rec?, hr]; rfl
  have hqueue : (s.released k r exempt).table.queue r.station = s.table.queue r.station := hm.queue _
  have hhead : (s.released k r exempt).table.head r.station = s.table.head r.station := hm.head _
  refine hd.update_unlinked (removed_update hn hr) ⟨Nat.pos_iff_ne_zero.mp (Table.rec?_some_pos hr).1, hn.station_lt hr, fun p hp => ?_,
    fun p hp => by simp at hp, fun _ => ⟨hk, by simp⟩, .inl hhead.symm,
    fun j hj => by simp [hqueue, hj], (hn.queue_once _).filter _, fun h => by simp at h⟩
    (fun _ _ hv => hv) (fun hq h0 => ?_) (fun p hp => by simp at hp) (by simp [hr']) fun _ j p hp hw => ?_
  · rw [← Option.some.inj (hr'.symm.trans hp)]
    exact (r.alike_cut k exempt k).station
  · refine Classical.by_contradiction fun hv => hn.queue_head _ (hn.station_lt hr) hv (fun hnil => hq ?_) h0
    rw [hnil]; rfl
  · obtain ⟨q, -, rfl⟩ := hm.rec?_some hp
    exact Record.cut_waitsOn hw

/-- A head leaves its station without one. -/
theorem removed_head_nearly (hn : s.table.Nearly V (· ∈ exempt)) (hr : s.table.rec? k = some r) (hk : s.table.head r.station = k) :
    ((s.removed k r exempt).table.setHead r.station 0).Nearly (fun f => V f ∨ f = r.station) (· ∈ exempt) := by
  have hm := released_mapped hn.shaped k r exempt
  have hd := released_nearly (r := r) (k := k) (exempt := exempt) hn
  have hr' : (s.released k r exempt).table.rec? k = some (r.cut k exempt k) := by rw [hm.rec?, hr]; rfl
  have hu := removed_update (exempt := exempt) hn hr
  have hst := (r.alike_cut k exempt k).station
  have hnot : k ∉ s.table.queue r.station := fun h => by
    obtain ⟨-, -, -, -, hne⟩ := hn.of_mem_queue (hn.station_lt hr) h
    exact hne hk
  have hfilter : (s.table.queue r.station).filter (fun q => q != k) = s.table.queue r.station :=
    List.filter_eq_self.mpr fun q hq => bne_iff_ne.mpr fun h => hnot (h ▸ hq)
  have hlen : (s.removed k r exempt).table.heads.length = 8 := by rw [hu.heads, hd.heads]
  have hleft : (s.released k r exempt).table.Update ((s.removed k r exempt).table.setHead r.station 0) k r.station none 0
      (s.table.queue r.station) :=
    ⟨hu.slots, by simpa using hu.heads, hu.queues, hu.rec?, fun f => by
      rw [Table.head_setHead hlen (hn.station_lt hr), hu.head]; split <;> rfl, fun f => by
      rw [Table.queue_setHead, hu.queue, hfilter]⟩
  have := hd.leave hr' (by rw [hst, hm.head, hk]) (by rw [hst, hm.queue]; exact hleft) (fun q hq => by simp at hq) fun _ j p hp hw => by
    obtain ⟨q, -, rfl⟩ := hm.rec?_some hp
    exact Record.cut_waitsOn hw
  rwa [hst] at this

theorem released_burners (s : State) (k : Nat) (r : Record) (exempt : List Nat) :
    (s.released k r exempt).burners = s.burners := by
  unfold State.released
  rw [detachFrom_eq]
  split <;> rfl

theorem removed_burners (s : State) (k : Nat) (r : Record) (exempt : List Nat) :
    (s.removed k r exempt).burners = s.burners := by
  rw [removed_eq]

theorem released_levels {D : Nat → Prop} (hn : s.table.Nearly V D) (hl : s.LevelsFollow) : (s.released k r exempt).LevelsFollow :=
  hl.mapped (released_burners s k r exempt) (released_mapped hn.shaped k r exempt) fun _ q _ => q.givenLevel_cut k exempt _

theorem removed_levels_but {D : Nat → Prop} (hn : s.table.Nearly V D) (hl : s.LevelsFollow) (hr : s.table.rec? k = some r) :
    (s.removed k r exempt).LevelsBut r.station :=
  ((released_levels (r := r) (k := k) (exempt := exempt) hn hl).but r.station).update
    ((removed_burners s k r exempt).trans (released_burners s k r exempt).symm) (removed_update hn hr) fun f hf => by
      rw [(released_mapped hn.shaped k r exempt).head]
      exact hn.head_ne hr hf

theorem removed_levels {D : Nat → Prop} (hn : s.table.Nearly V D) (hl : s.LevelsFollow) (hr : s.table.rec? k = some r)
    (hk : s.table.head r.station ≠ k) : (s.removed k r exempt).LevelsFollow := by
  have hm := released_mapped hn.shaped k r exempt
  have hu := removed_update (exempt := exempt) hn hr
  rw [← hm.head] at hu
  refine (released_levels (r := r) (k := k) (exempt := exempt) hn hl).update
    ((removed_burners s k r exempt).trans (released_burners s k r exempt).symm) hu fun f => ?_
  rw [hm.head]
  by_cases hf : f = r.station
  · rwa [hf]
  · exact hn.head_ne hr hf

/-- The levels after a head has left without promotion. -/
theorem unheaded_levels {s : State} {st : Nat} (h : s.LevelsBut st) :
    ((s.withTable (s.table.setHead st 0)).follow st).LevelsFollow := by
  have hother : ∀ f, f ≠ st → (s.table.setHead st 0).head f = s.table.head f := fun f hf => Table.head_setHead_other _ _ hf
  refine follow_levels ⟨h.six, fun f hf hne => ?_, fun f hf hne => ?_⟩
  · rw [State.withTable_table, Table.levelOf_eq, Table.headRec?, hother f hne, Table.rec?_setHead]
    exact (h.level f hf hne).trans (Table.levelOf_eq _ _)
  · rw [State.withTable_table, hother f hne]
    exact h.source f hf hne

end

/-- The retirement of one record, with promotion (R29). -/
theorem keeps_retire (s : State) (k : Nat) : s.Keeps (s.retire k true []) := by
  cases hr : s.table.rec? k with
  | none => rw [retire_absent hr]; exact .refl s
  | some r =>
    refine .assuming fun hc => ?_
    have hn : s.table.Nearly noSlot (· ∈ ([] : List Nat)) := hc.nearly _
    have hst := hn.station_lt hr
    rw [retire_eq hr]
    refine .ite (fun hk => ?_) fun hk => ?_
    · have hshaped : (s.removed k r []).table.Shaped := (removed_update hn hr).shaped (released_nearly hn).shaped
      refine ⟨fun _ => ?_, fun _ hl => promote_levels hshaped hst (removed_levels_but hn hl hr) fun n hm => ?_⟩
      · exact (promote_nearly hst ((removed_head_nearly hn hr hk).mono (fun f hf => hf.resolve_left id)
          (fun _ hd => List.not_mem_nil hd))).to_consistent
      · rw [removed_queue hn hr] at hm
        obtain ⟨hm, hne⟩ := List.mem_filter.mp hm
        obtain ⟨q, hq, hqst, -, -⟩ := hn.of_mem_queue hst hm
        refine ⟨q.cut k [] n, by rw [removed_rec? hn hr, if_neg (by simpa using hne), hq]; rfl, fun f hf => ?_⟩
        rw [removed_head hn hr]
        exact hn.head_ne hq (by rwa [hqst])
    · exact ⟨fun _ => ((removed_nearly hn hr hk).mono (fun _ hv => hv) (fun _ hd => List.not_mem_nil hd)).to_consistent,
        fun _ hl => removed_levels hn hl hr hk⟩

/-! ### A set of retirements (R37, R39) -/

/-- The table after the retirement of the records of the slots ks, none of which is replaced as head by a promotion. -/
structure Table.Emptied (t t' : Table) (ks exempt : List Nat) : Prop where
  slots : t'.slots.length = t.slots.length
  heads : t'.heads.length = t.heads.length
  rec? : ∀ j, t'.rec? j = if j ∈ ks then none
    else (t.rec? j).map (fun r => if r.holdsLink = true ∧ r.start.linked ∈ ks ∧ j ∉ exempt then r.detach else r)
  head : ∀ f, t'.head f = if t.head f ∈ ks then 0 else t.head f
  queue : ∀ f, t'.queue f = (t.queue f).filter (fun k => !ks.contains k)

/-- A head that leaves without promotion lights nothing: its station's head reference is cleared, and no record changes. -/
theorem unheaded_table {s : State} (hs : s.table.heads.length = 8) {st : Nat} (hst : st < 8) :
    ((s.withTable (s.table.setHead st 0)).follow st).table = s.table.setHead st 0 := by
  refine follow_table_steady fun hl => hl.2.1 ?_
  rw [State.withTable_table, Table.levelOf_eq, Table.headRec?, Table.head_setHead hs hst, if_pos rfl, Table.rec?_zero,
    Option.elim_none]

section

variable {s : State} {V : Nat → Prop} {k : Nat} {r : Record} {exempt : List Nat} {promotes : Bool}

/-- One retirement in which nothing is promoted: the table after it. -/
theorem retire_emptied {D : Nat → Prop} (hn : s.table.Nearly V D) (hr : s.table.rec? k = some r)
    (hp : promotes = true → s.table.head r.station ≠ k) : s.table.Emptied (s.retire k promotes exempt).table [k] exempt := by
  have hst := hn.station_lt hr
  have hu := removed_update (exempt := exempt) hn hr
  have hd := released_nearly (r := r) (k := k) (exempt := exempt) hn
  have hm := released_mapped hn.shaped k r exempt
  have hlen : (s.removed k r exempt).table.heads.length = 8 := by rw [hu.heads, hd.heads]
  have htable : (s.retire k promotes exempt).table = if s.table.head r.station = k then
      (s.removed k r exempt).table.setHead r.station 0 else (s.removed k r exempt).table := by
    rw [retire_eq hr]
    split
    · next hk =>
      rw [if_neg fun h => hp h hk]
      exact unheaded_table hlen hst
    · rfl
  have hrec : ∀ j, (s.retire k promotes exempt).table.rec? j = (s.removed k r exempt).table.rec? j := fun j => by
    rw [htable]; split <;> rfl
  refine ⟨?_, ?_, fun j => ?_, fun f => ?_, fun f => ?_⟩
  · rw [htable]
    split <;> exact hu.slots.trans hm.slots
  · have : (s.retire k promotes exempt).table.heads.length = (s.removed k r exempt).table.heads.length := by
      rw [htable]; split <;> simp
    rw [this, hu.heads, hm.heads]
  · rw [hrec, removed_rec? hn hr]
    simp only [List.mem_singleton]
    split
    · rfl
    · refine congrArg (fun g => (s.table.rec? j).map g) (funext fun q => if_congr ?_ rfl rfl)
      simp [Record.waitsOn, and_assoc]
  · rw [htable]
    simp only [List.mem_singleton]
    by_cases hf : f = r.station
    · subst hf
      split
      · rw [Table.head_setHead hlen hst, if_pos rfl]
      · exact removed_head hn hr _
    · rw [if_neg (hn.head_ne hr hf)]
      split
      · rw [Table.head_setHead hlen hst, if_neg hf, removed_head hn hr]
      · exact removed_head hn hr f
  · have : (s.retire k promotes exempt).table.queue f = (s.removed k r exempt).table.queue f := by
      rw [htable]; split <;> rfl
    rw [this, removed_queue hn hr]
    refine List.filter_congr fun q _ => ?_
    by_cases hq : q = k <;> simp [hq]

/-- What one retirement without promotion keeps: the station may be left with a queue without a head. -/
theorem retire_nearly (hn : s.table.Nearly V (· ∈ exempt)) (hr : s.table.rec? k = some r)
    (hp : promotes = true → s.table.head r.station ≠ k) (hV : s.table.head r.station = k → V r.station) :
    (s.retire k promotes exempt).table.Nearly V (· ∈ exempt) := by
  rw [retire_eq hr]
  split
  · next hk =>
    rw [if_neg fun h => hp h hk]
    refine follow_nearly ((removed_head_nearly hn hr hk).mono (fun f hf => ?_) fun _ hd => hd) _
    rcases hf with hf | rfl
    · exact hf
    · exact hV hk
  · next hk => exact removed_nearly hn hr hk

theorem retire_levels {D : Nat → Prop} (hn : s.table.Nearly V D) (hl : s.LevelsFollow) (hr : s.table.rec? k = some r)
    (hp : promotes = true → s.table.head r.station ≠ k) : (s.retire k promotes exempt).LevelsFollow := by
  rw [retire_eq hr]
  split
  · next hk =>
    rw [if_neg fun h => hp h hk]
    exact unheaded_levels (removed_levels_but hn hl hr)
  · next hk => exact removed_levels hn hl hr hk

end

/-- The records of these slots may be retired one after another without a promotion: each slot has a record, and the record is not
head, or its station is one that is being emptied. -/
structure Table.Retirable (t : Table) (V : Nat → Prop) (promotes : Bool) (ks : List Nat) : Prop where
  once : ks.Nodup
  present : ∀ k ∈ ks, ∃ r, t.rec? k = some r ∧ (promotes = true → t.head r.station ≠ k) ∧ (t.head r.station = k → V r.station)

theorem Table.Retirable.tail {t t' : Table} {V : Nat → Prop} {promotes : Bool} {k : Nat} {ks exempt : List Nat}
    (h : t.Retirable V promotes (k :: ks)) (he : t.Emptied t' [k] exempt) : t'.Retirable V promotes ks := by
  obtain ⟨hk, hks⟩ := List.nodup_cons.mp h.once
  refine ⟨hks, fun j hj => ?_⟩
  obtain ⟨r, hr, hp, hV⟩ := h.present j (List.mem_cons_of_mem _ hj)
  have hjk : j ≠ k := fun hjk => hk (hjk ▸ hj)
  have hj0 : j ≠ 0 := Nat.pos_iff_ne_zero.mp (Table.rec?_some_pos hr).1
  have hhead : ∀ f, t'.head f = j → t.head f = j := fun f => by
    rw [he.head]; split
    · exact fun h0 => absurd h0.symm hj0
    · exact id
  refine ⟨_, by rw [he.rec?, if_neg (by simpa using hjk), hr]; rfl, ?_⟩
  dsimp only
  split
  · exact ⟨fun hpr hh => hp hpr (hhead _ hh), fun hh => hV (hhead _ hh)⟩
  · exact ⟨fun hpr hh => hp hpr (hhead _ hh), fun hh => hV (hhead _ hh)⟩

theorem Table.Emptied.refl (t : Table) (exempt : List Nat) : t.Emptied t [] exempt where
  slots := rfl
  heads := rfl
  rec? j := by simp
  head f := by simp
  queue f := by simp

theorem Table.Emptied.cons {t t' t'' : Table} {k : Nat} {ks exempt : List Nat} (h : t.Emptied t' [k] exempt)
    (h' : t'.Emptied t'' ks exempt) (h0 : 0 ∉ ks) : t.Emptied t'' (k :: ks) exempt where
  slots := h'.slots.trans h.slots
  heads := h'.heads.trans h.heads
  rec? j := by
    rw [h'.rec?, h.rec?]
    by_cases hj : j ∈ ks
    · simp [hj]
    · by_cases hjk : j = k
      · simp [hjk]
      · rw [if_neg hj, if_neg (by simpa using hjk), if_neg (by simp [hj, hjk]), Option.map_map]
        refine congrArg (fun g => (t.rec? j).map g) (funext fun r => ?_)
        simp only [Function.comp, List.mem_cons, List.not_mem_nil, or_false]
        by_cases h1 : r.holdsLink = true ∧ r.start.linked = k ∧ j ∉ exempt
        · rw [if_pos h1, if_neg (by simp [Record.detach_holdsLink]), if_pos ⟨h1.1, .inl h1.2.1, h1.2.2⟩]
        · rw [if_neg h1]
          refine if_congr ⟨fun h => ⟨h.1, .inr h.2.1, h.2.2⟩, fun h => ⟨h.1, ?_, h.2.2⟩⟩ rfl rfl
          exact h.2.1.resolve_left fun hl => h1 ⟨h.1, hl, h.2.2⟩
  head f := by
    rw [h'.head, h.head]
    by_cases hf : t.head f = k
    · simp [hf, h0]
    · simp [hf]
  queue f := by
    rw [h'.queue, h.queue, List.filter_filter]
    refine List.filter_congr fun q _ => ?_
    by_cases hq : q = k <;> simp [hq]

/-- Retirements one after another without a promotion. -/
theorem foldl_retire {V : Nat → Prop} {promotes : Bool} {exempt ks : List Nat} {s : State}
    (hn : s.table.Nearly V (· ∈ exempt)) (hk : s.table.Retirable V promotes ks) :
    let t := ks.foldl (fun s k => s.retire k promotes exempt) s
    s.table.Emptied t.table ks exempt ∧ t.table.Nearly V (· ∈ exempt) ∧ (s.LevelsFollow → t.LevelsFollow) := by
  induction ks generalizing s with
  | nil => exact ⟨.refl _ _, hn, id⟩
  | cons k ks ih =>
    obtain ⟨r, hr, hp, hV⟩ := hk.present k List.mem_cons_self
    have he := retire_emptied (exempt := exempt) hn hr hp
    have hrest := hk.tail he
    obtain ⟨hemptied, hnear, hlevels⟩ := ih (retire_nearly hn hr hp hV) hrest
    refine ⟨he.cons hemptied fun h0 => ?_, hnear, fun hl => hlevels (retire_levels hn hl hr hp)⟩
    obtain ⟨q, hq, -⟩ := hrest.present 0 h0
    simp at hq

/-- A set is retired without a promotion: afterwards no record of it stands, so what the set left open is closed. -/
theorem retireAll_spec {V : Nat → Prop} {promotes : Bool} {ks : List Nat} {s : State} (hc : s.table.Consistent)
    (hk : s.table.Retirable V promotes ks)
    (hV : ∀ st k r, V st → k ∈ s.table.queue st → s.table.rec? k = some r → k ∈ ks) :
    s.table.Emptied (s.retireAll ks promotes).table ks ks ∧ s.Keeps (s.retireAll ks promotes) := by
  have hn : s.table.Nearly V (· ∈ ks) := (hc.nearly _).mono (fun _ h => h.elim) fun _ h => h
  obtain ⟨he, hnear, hlevels⟩ := foldl_retire hn hk
  refine ⟨he, fun _ => hnear.consistent (fun st hst hv => ?_) (fun k r hk hr => ?_), fun _ => hlevels⟩
  · rw [he.queue, List.filter_eq_nil_iff]
    intro k hk
    obtain ⟨r, hr, -⟩ := hc.queue_rec st k hst hk
    simp [hV st k r hv hk hr]
  · rw [he.rec?, if_pos hk] at hr
    exact absurd hr (by simp)

end Sys2Proof.Machine
end


section
/-! PROOFS. Every step keeps the Schedule Table consistent and every burner at its head's level (R11, R17, R18, R22, R24, R41, R43,
R74): O14. -/

namespace Sys2Proof.Machine

/-! ### What an accepted command has passed (R139) -/

section

variable {s : State} {p : Port} {work : Verdict} {x : State × List Byte}

theorem withRecord_ok {k : Nat} {work : Record → Verdict} (h : s.withRecord p k work = .ok x) :
    ∃ r, s.table.rec? k = some r ∧ work r = .ok x := by
  unfold State.withRecord at h
  split at h
  · exact absurd h (by simp)
  · split at h
    · exact absurd h (by simp)
    · next r hr =>
      split at h
      · exact ⟨r, hr, h⟩
      · exact absurd h (by simp)

theorem allowed_ok {st : Nat} {limit : Bool} (h : s.allowed p st limit work = .ok x) : work = .ok x := by
  unfold State.allowed at h
  split at h
  · exact absurd h (by simp)
  · split at h
    · exact absurd h (by simp)
    · exact h

theorem inState_ok {ok : Bool} (h : inState ok work = .ok x) : ok = true ∧ work = .ok x := by
  unfold inState at h
  split at h
  · next ho => exact ⟨ho, h⟩
  · exact absurd h (by simp)

theorem guarded_ok {starts : Bool} (h : guarded p starts work = .ok x) : work = .ok x := by
  unfold guarded at h
  split at h
  · exact absurd h (by simp)
  · exact h

theorem panelOnly_ok (h : panelOnly p work = .ok x) : work = .ok x := by
  cases p with
  | panel => exact h
  | remote => exact absurd h (by simp [panelOnly])

theorem notStoring_ok (h : s.notStoring work = .ok x) : work = .ok x := by
  unfold State.notStoring at h
  split at h
  · exact absurd h (by simp)
  · exact h

end

/-! ### The Command Unit -/

theorem conclude_table (s : State) (p : Port) (tag : Byte) (v : Verdict) :
    (s.conclude p tag v).table = (match v with | .error _ => s | .ok (t, _) => t).table
      ∧ (s.conclude p tag v).burners = (match v with | .error _ => s | .ok (t, _) => t).burners := by
  cases v with
  | error c => cases p <;> exact ⟨rfl, rfl⟩
  | ok x => cases p <;> exact ⟨rfl, rfl⟩

/-- A command keeps what its own work keeps. -/
theorem keeps_execute {code : Nat} {body : Port → List Byte → State → Verdict} {s t : State}
    (h : ∀ p bytes (s' t' : State) data, body p bytes s' = .ok (t', data) → s'.Keeps t')
    (he : execute code body s = .next t) : s.Keeps t := by
  unfold execute at he
  injection he with he
  rw [← he]
  cases hchosen : s.chosen with
  | none => exact .refl s
  | some x =>
    obtain ⟨p, bytes⟩ := x
    refine .ite (fun _ => ?_) fun _ => .refl s
    have htaken : s.Keeps (s.takeCommand p) := .of_eq (by simp) (by simp)
    obtain ⟨htable, hburners⟩ := conclude_table (s.takeCommand p) p (tagOf bytes)
      ((s.takeCommand p).judge code bytes (body p bytes (s.takeCommand p)))
    refine htaken.trans (State.Keeps.then_eq ?_ htable hburners)
    cases hv : (s.takeCommand p).judge code bytes (body p bytes (s.takeCommand p)) with
    | error c => exact .refl _
    | ok x =>
      obtain ⟨t', data⟩ := x
      unfold State.judge at hv
      split at hv
      · exact absurd hv (by simp)
      · split at hv
        · exact absurd hv (by simp)
        · exact h p bytes _ t' data hv

theorem verdict_ok_inj {t t' : State} {d d' : List Byte} (h : (Except.ok (t, d) : Verdict) = .ok (t', d')) : t = t' := by
  injection h with h
  exact (Prod.mk.inj h).1

/-! ### CREATE (R18, R20, R74, R150) -/

theorem newRecord_sound {p : Port} {c : CreateParams} (h : c.acceptable = true) (sc : StartCondition) : (newRecord p c sc).Sound := by
  simp only [CreateParams.acceptable, Bool.and_eq_true, decide_eq_true_eq, List.all_eq_true] at h
  obtain ⟨⟨⟨⟨hst, -⟩, hsome⟩, hfew⟩, hstages⟩ := h
  refine ⟨hst, by simpa [newRecord] using hsome, by simpa [newRecord] using hfew, fun g hg => ?_, Nat.zero_le _, ?_, ?_, ?_, ?_⟩
  · obtain ⟨w, hw, rfl⟩ := List.mem_map.mp hg
    have hsec : w.seconds ≠ 0 := by
      have := hstages w hw
      simp only [RawStage.acceptable, Bool.and_eq_true, bne_iff_ne] at this
      exact this.1.1.1.2
    simp only [RawStage.stored, clampDuration, Config.minStage, Config.maxStage, Config.maxSeconds]
    omega
  · simp [newRecord, Record.isHead]
  · simp [newRecord]
  · simp [newRecord]
  · simp [newRecord]

theorem Table.free?_some {t : Table} {k : Nat} (h : t.free? = some k) :
    k ∈ allSlots ∧ t.rec? k = none ∧ ∀ j, 1 ≤ j → j < k → t.rec? j ≠ none := by
  obtain ⟨hp, as, bs, hall, hbefore⟩ := List.find?_eq_some_iff_append.mp h
  have hmem : k ∈ allSlots := by rw [hall]; simp
  refine ⟨hmem, by simpa using hp, fun j h1 hj hnone => ?_⟩
  have hjm : j ∈ as ++ k :: bs := by
    rw [← hall]
    exact mem_allSlots.mpr ⟨h1, by have := mem_allSlots.mp hmem; omega⟩
  have hsorted := allSlots_pairwise
  rw [hall, List.pairwise_append] at hsorted
  rcases List.mem_append.mp hjm with hja | hjb
  · simpa [hnone] using hbefore j hja
  · rcases List.mem_cons.mp hjb with rfl | hjb
    · omega
    · have := (List.pairwise_cons.mp hsorted.2.1).1 j hjb
      omega

theorem Table.put_new_update {t : Table} (ht : t.Shaped) {k st : Nat} (hst : st < 8) (hk : k ∈ allSlots) (r : Record) :
    t.Update (t.put k (some r)) k st (some r) (t.head st) (t.queue st) := by
  have hput := Table.put_update ht hst hk (some r) (t.head st) (t.queue st)
  rwa [Table.setQueue_self, Table.setHead_self] at hput

/-- No station's head or queue names an EMPTY slot. -/
theorem Table.Consistent.unnamed {t : Table} (hc : t.Consistent) {k : Nat} (hk : k ≠ 0) (hfree : t.rec? k = none) (st : Nat) :
    t.head st ≠ k ∧ k ∉ t.queue st := by
  by_cases hst : st < 8
  · refine ⟨fun he => ?_, fun hm => ?_⟩
    · obtain ⟨q, hq, -⟩ := hc.head_rec st hst (by omega)
      exact absurd (hfree.symm.trans (he ▸ hq)) (by simp)
    · obtain ⟨q, hq, -⟩ := hc.queue_rec st k hst hm
      exact absurd (hfree.symm.trans hq) (by simp)
  · refine ⟨fun he => hk (he.symm.trans (Table.head_beyond hc.heads hst)), fun hm => ?_⟩
    rw [Table.queue, List.getD_eq_getElem?_getD, List.getElem?_eq_none (by rw [hc.queues]; omega)] at hm
    simp at hm

/-- A record written into an EMPTY slot lies on no chain but its own. -/
theorem Table.depth_put_new {t : Table} (hc : t.Consistent) {k : Nat} {r : Record} (hfree : t.rec? k = none) (n : Nat) {j : Nat}
    (hj : j ≠ k) : (t.put k (some r)).depth n j = t.depth n j := by
  induction n generalizing j with
  | zero => rfl
  | succ n ih =>
    rw [Table.depth, Table.depth, Table.rec?_put_other t _ hj]
    cases hq : t.rec? j with
    | none => rfl
    | some q =>
      dsimp only
      split
      · next hl =>
        obtain ⟨x, hx⟩ := hc.linked j q hq hl
        rw [ih fun he => by simp [he, hfree] at hx]
      · rfl

/-- A record written into an EMPTY slot, with a link only to a record whose chain is short enough. -/
theorem put_new_consistent {t : Table} (hc : t.Consistent) {k : Nat} {r : Record} (hk : k ∈ allSlots) (hfree : t.rec? k = none)
    (hs : r.Sound) (ha : r.state = .armed) (hfull : t.stationCount r.station < 6)
    (hlink : r.holdsLink = true → ∃ q, t.rec? r.start.linked = some q ∧ t.depth 5 r.start.linked < 4) :
    (t.put k (some r)).Consistent := by
  have hst := hs.station
  have hu := Table.put_new_update hc.shaped hst hk r
  have hk0 : k ≠ 0 := by have := mem_allSlots.mp hk; omega
  have hlinked : ∀ j q, (t.put k (some r)).rec? j = some q → q.holdsLink = true → ∃ x, t.rec? q.start.linked = some x := by
    intro j q hq hl
    rw [hu.rec?] at hq
    split at hq
    · obtain rfl := Option.some.inj hq
      obtain ⟨x, hx, -⟩ := hlink hl
      exact ⟨x, hx⟩
    · exact hc.linked j q hq hl
  have hne : ∀ j x, t.rec? j = some x → j ≠ k := fun j x hx he => by simp [he, hfree] at hx
  refine ((hc.nearly noSlot).update hu ⟨hk0, hst, fun q hq => by simp [hfree] at hq, fun q hq => ?_, fun h => by simp at h, .inl rfl,
    fun _ _ => Iff.rfl, hc.queue_once _, fun _ _ => hfull⟩ (fun _ _ hv => hv) (fun hq h0 => absurd h0 (hc.queue_head _ hst hq))
    (fun j q hq hl _ => ?_) fun j q hq => ?_).to_consistent
  · obtain rfl := Option.some.inj hq
    obtain ⟨hhead, hqueue⟩ := hc.unnamed hk0 hfree r.station
    exact ⟨hs, rfl, by simp [Record.isHead, ha, hhead], by simp [ha, hqueue]⟩
  · obtain ⟨x, hx⟩ := hlinked j q hq hl
    exact ⟨x, by rw [hu.rec?_other (hne _ x hx), hx]⟩
  · by_cases hj : j = k
    · subst hj
      rw [Table.depth, hu.rec?_same]
      dsimp only
      split
      · next hl =>
        obtain ⟨x, hx, hd⟩ := hlink hl
        rw [Table.depth_put_new hc hfree 4 (hne _ x hx)]
        have : t.depth 4 r.start.linked ≤ t.depth 5 r.start.linked := t.depth_mono 4 _
        omega
      · exact Nat.zero_le _
    · rw [Table.depth_put_new hc hfree 5 hj]
      rw [hu.rec?_other hj] at hq
      exact hc.chain j q hq

/-- The record that a CREATE writes holds a link only to a record that the checks have found, on a chain that is short enough. -/
theorem newRecord_link {s : State} {p : Port} {c : CreateParams} {sc : StartCondition} (hmissing : s.linkMissing p sc = false)
    (hdeep : s.table.chainTooDeep sc = false) (hl : (newRecord p c (s.table.createdStart sc)).holdsLink = true) :
    ∃ q, s.table.rec? (newRecord p c (s.table.createdStart sc)).start.linked = some q
      ∧ s.table.depth 5 (newRecord p c (s.table.createdStart sc)).start.linked < 4 := by
  simp only [Record.holdsLink, newRecord, Table.createdStart, Bool.and_eq_true, beq_iff_eq, bne_iff_ne] at hl ⊢
  split at hl
  · simp at hl
  · next hne =>
    obtain ⟨⟨-, hkind⟩, -⟩ := hl
    rw [if_neg hne]
    simp only [State.linkMissing, Table.chainTooDeep, hkind, beq_self_eq_true, Bool.true_and, decide_eq_false_iff_not] at hmissing hdeep
    cases hq : s.table.rec? sc.linked with
    | none => simp [hq] at hmissing
    | some q => exact ⟨q, rfl, by omega⟩

theorem keeps_create {p : Port} {bytes : List Byte} {s t : State} {data : List Byte} (h : createBody p bytes s = .ok (t, data)) :
    s.Keeps t := by
  unfold createBody at h
  split at h
  · exact absurd h (by simp)
  next c hparse =>
  split at h
  next hacc =>
    split at h
    · exact absurd h (by simp)
    next sc hsc =>
    have h := allowed_ok h
    unfold State.createChecked at h
    split at h
    · exact absurd h (by simp)
    split at h
    · exact absurd h (by simp)
    next hmissing =>
    split at h
    · exact absurd h (by simp)
    next hdeep =>
    split at h
    · exact absurd h (by simp)
    next k hfree =>
    split at h
    · exact absurd h (by simp)
    next hfull =>
    obtain ⟨hk, hnone, -⟩ := Table.free?_some hfree
    let r := newRecord p c (s.table.createdStart sc)
    refine .assuming fun hc => ?_
    have hsound : r.Sound := newRecord_sound hacc _
    have hwritten : s.Keeps (s.withTable (s.table.put k (some r))) := by
      refine ⟨fun _ => put_new_consistent hc hk hnone hsound rfl (Nat.lt_of_not_le hfull)
        (newRecord_link (by simpa using hmissing) (by simpa using hdeep)), fun _ hl => hl.update rfl
          (Table.put_new_update hc.shaped hsound.station hk r) fun f => (hc.unnamed ?_ hnone f).1⟩
      have := mem_allSlots.mp hk
      omega
    have hrec : (s.withTable (s.table.put k (some r))).table.rec? k = some r :=
      (Table.put_new_update hc.shaped hsound.station hk r).rec?_same
    rw [← verdict_ok_inj h]
    exact .ite (fun _ => hwritten.trans (keeps_place hrec rfl)) fun _ => hwritten
  · exact absurd h (by simp)

/-! ### The other record commands -/

/-- A state that another of the same station's heads can change to. -/
theorem Record.alike_of_head {r q : Record} (hr : r.isHead = true) (hq : q.isHead = true) (hst : q.station = r.station)
    (hsound : r.Sound → q.Sound) : r.Alike q := by
  refine ⟨hst, hq.trans hr.symm, ?_, hsound, fun hl => ?_⟩
  · refine iff_of_false (fun h => ?_) fun h => ?_
    · simp [Record.isHead, h] at hq
    · simp [Record.isHead, h] at hr
  · simp only [Record.holdsLink, Bool.and_eq_true, beq_iff_eq] at hl
    simp [Record.isHead, hl.1.1] at hq

theorem Record.alike_pauseAt {r : Record} (h : r.state = .running) : r.Alike r.pauseAt := by
  refine Record.alike_of_head (by simp [Record.isHead, h]) rfl rfl fun hs => ?_
  exact ⟨hs.station, hs.some_stage, hs.few_stages, hs.durations, hs.index, fun _ => hs.head_index (by simp [Record.isHead, h]),
    fun he => by simp [Record.pauseAt] at he, fun _ => hs.left (.inl h), fun hk => by simp [hs.keep_ended hk] at h⟩

theorem Record.alike_resumeAt {r : Record} (h : r.resumable = true) : r.Alike r.resumeAt := by
  have hhead := (Record.resumable_head_dark h).1
  rw [Record.resumeAt_eq]
  rcases Record.resumable_iff.mp h with h | h | ⟨h, hk, -⟩
  · refine Record.alike_of_head hhead (by simp [Record.isHead, h]) rfl fun hs => ?_
    exact ⟨hs.station, hs.some_stage, hs.few_stages, hs.durations, hs.index, fun _ => hs.head_index hhead, fun he => by simp [h] at he,
      fun _ => hs.left (.inr (.inl h)), fun hk => by simp [hs.keep_ended hk] at h⟩
  · refine Record.alike_of_head hhead (by simp [Record.isHead, h]) rfl fun hs => ?_
    exact ⟨hs.station, hs.some_stage, hs.few_stages, hs.durations, hs.index, fun _ => hs.head_index hhead, fun he => by simp [h] at he,
      fun _ => hs.left (.inr (.inr h)), fun hk => by simp [hs.keep_ended hk] at h⟩
  · refine Record.alike_of_head hhead (by simp [Record.isHead, h, hk]) rfl fun hs => ?_
    exact ⟨hs.station, hs.some_stage, hs.few_stages, hs.durations, hs.index, fun _ => hs.head_index hhead, fun _ => hs.last h,
      fun hl => by simp [h] at hl, fun _ => by simp [h]⟩

/-- A record whose stages are replaced by as many of durations in range. -/
theorem Record.alike_stages (r : Record) (gs : List Stage) (hlen : gs.length = r.stages.length)
    (hdur : (∀ g ∈ r.stages, Config.minStage ≤ g.duration ∧ g.duration ≤ Config.maxStage) →
      ∀ g ∈ gs, Config.minStage ≤ g.duration ∧ g.duration ≤ Config.maxStage) : r.Alike { r with stages := gs } where
  station := rfl
  isHead := rfl
  queued := Iff.rfl
  sound h := ⟨h.station, by rw [hlen]; exact h.some_stage, by rw [hlen]; exact h.few_stages, hdur h.durations,
    by rw [hlen]; exact h.index, h.head_index, fun he => by rw [hlen]; exact h.last he, h.left, h.keep_ended⟩
  link h := ⟨h, rfl⟩

/-- Each stage of a list in which one has been modified is a stage of the list or a modified one. -/
theorem mem_modify_stage {gs : List Stage} {i : Nat} {f : Stage → Stage} {g : Stage} (h : g ∈ gs.modify i f) :
    ∃ x ∈ gs, g = x ∨ g = f x := by
  obtain ⟨j, hj⟩ := List.mem_iff_getElem?.mp h
  rw [List.getElem?_modify] at hj
  split at hj
  · obtain ⟨x, hx, rfl⟩ := Option.map_eq_some_iff.mp hj
    exact ⟨x, List.mem_of_getElem? hx, .inr rfl⟩
  · obtain ⟨x, hx, rfl⟩ := Option.map_eq_some_iff.mp hj
    exact ⟨x, List.mem_of_getElem? hx, .inl rfl⟩

theorem Stage.withLevel_duration (st v : Nat) (g : Stage) : (g.withLevel st v).duration = g.duration := by
  unfold Stage.withLevel
  split
  · rfl
  · split <;> rfl

theorem Record.alike_setLevel (v : Nat) (r : Record) : r.Alike (r.setLevel v) := by
  refine r.alike_stages _ (List.length_modify _ _ _) fun hdur g hg => ?_
  obtain ⟨x, hx, rfl | rfl⟩ := mem_modify_stage hg
  · exact hdur _ hx
  · rw [Stage.withLevel_duration]
    exact hdur x hx

theorem clampTime_range (ds : Nat) (delta : Int) : Config.minStage ≤ clampTime ds delta ∧ clampTime ds delta ≤ Config.maxStage := by
  simp only [clampTime, Config.minStage, Config.maxStage]
  omega

/-- A time within the range of stage times takes the place of the one that counts. -/
theorem Record.alike_setTime {v : Nat} (hv : Config.minStage ≤ v ∧ v ≤ Config.maxStage) (r : Record) : r.Alike (r.setTime v) := by
  have hstages : r.Alike { r with stages := r.stages.modify 0 (fun g => { g with duration := v }) } := by
    refine r.alike_stages _ (List.length_modify _ _ _) fun hdur g hg => ?_
    obtain ⟨x, hx, rfl | rfl⟩ := mem_modify_stage hg
    · exact hdur _ hx
    · exact hv
  have hremaining : r.Alike { r with remaining := v } :=
    ⟨rfl, rfl, Iff.rfl, fun h => ⟨h.station, h.some_stage, h.few_stages, h.durations, h.index, h.head_index, h.last,
      fun _ => ⟨Nat.le_trans (by decide) hv.1, hv.2⟩, h.keep_ended⟩, fun h => ⟨h, rfl⟩⟩
  cases hs : r.state <;> simp only [Record.setTime, hs]
  case armed | queued => exact hs ▸ hstages
  case running | paused | held => exact hs ▸ hremaining
  case ended => exact .refl r

theorem Record.givenLevel_setTime (v : Nat) (r : Record) : (r.setTime v).givenLevel = r.givenLevel := by
  cases hs : r.state <;> simp [Record.setTime, Record.givenLevel, Record.lit, Record.shownStage?, Record.shownIndex, Record.stageAt?, hs]

theorem Record.rearm_cases (r : Record) : r.rearm = r ∨ r.rearm = { r with reminderDone := false } := by
  unfold Record.rearm
  split
  · exact .inr rfl
  · exact .inl rfl

theorem Record.alike_rearm (r : Record) : r.Alike r.rearm ∧ r.rearm.givenLevel = r.givenLevel := by
  rcases r.rearm_cases with h | h <;> rw [h]
  · exact ⟨.refl r, rfl⟩
  · exact ⟨⟨rfl, rfl, Iff.rfl, fun h => ⟨h.station, h.some_stage, h.few_stages, h.durations, h.index, h.head_index, h.last, h.left,
      h.keep_ended⟩, fun h => ⟨h, rfl⟩⟩, rfl⟩

section

variable {p : Port} {bytes : List Byte} {s t : State} {data : List Byte}

theorem keeps_retireBody (h : retireBody p bytes s = .ok (t, data)) : s.Keeps t := by
  obtain ⟨r, -, h⟩ := withRecord_ok h
  rw [← verdict_ok_inj (guarded_ok (allowed_ok h))]
  exact keeps_settleFrom (keeps_retire s _) s

/-- Dropping elements and following a head touch different blocks. -/
theorem dropElements_follow (u : State) (es : List Nat) (k st : Nat) :
    (u.dropElements es k).follow st = (u.follow st).dropElements es k := by
  unfold State.follow
  split
  · by_cases h : u.table.levelOf st ≠ 0 ∧ ((u.burner st).level = 0 ∨ (u.burner st).source ≠ u.table.head st)
    · dsimp only
      rw [if_pos h]
      exact if_pos h
    · dsimp only
      rw [if_neg h]
      exact if_neg h
  · rfl

theorem keeps_pause (h : pauseBody p bytes s = .ok (t, data)) : s.Keeps t := by
  obtain ⟨r, hr, h⟩ := withRecord_ok h
  obtain ⟨hs, h⟩ := inState_ok (allowed_ok h)
  rw [← verdict_ok_inj h]
  have hkeep := keeps_modify_follow hr (f := Record.pauseAt) (Record.alike_pauseAt (by simpa using hs))
  rw [dropElements_follow]
  exact hkeep.then_eq rfl rfl

theorem keeps_resume (h : resumeBody p bytes s = .ok (t, data)) : s.Keeps t := by
  obtain ⟨r, hr, h⟩ := withRecord_ok h
  obtain ⟨hs, h⟩ := inState_ok (allowed_ok h)
  rw [← verdict_ok_inj h]
  exact keeps_modify_follow hr (Record.alike_resumeAt hs)

theorem keeps_adjust (h : adjustBody p bytes s = .ok (t, data)) : s.Keeps t := by
  unfold adjustBody at h
  dsimp only at h
  split at h
  · exact absurd h (by simp)
  obtain ⟨r, hr, h⟩ := withRecord_ok h
  have h := allowed_ok h
  split at h
  · exact absurd h (by simp)
  next v _ =>
  rw [← verdict_ok_inj h]
  refine keeps_settleFrom (keeps_modify s _ (fun q => ?_) fun q => ?_) s
  · exact ((Record.alike_setTime (clampTime_range _ _) q).trans (Record.alike_rearm _).1).trans (Record.alike_remind _)
  · rw [Record.givenLevel_remind, (Record.alike_rearm _).2, Record.givenLevel_setTime]

theorem keeps_setLevel (h : setLevelBody p bytes s = .ok (t, data)) : s.Keeps t := by
  unfold setLevelBody at h
  dsimp only at h
  split at h
  · exact absurd h (by simp)
  obtain ⟨r, hr, h⟩ := withRecord_ok h
  split at h
  · exact absurd h (by simp)
  obtain ⟨-, h⟩ := inState_ok (allowed_ok h)
  rw [← verdict_ok_inj h]
  exact keeps_modify_follow hr (Record.alike_setLevel _ r)

theorem keeps_skip (h : skipBody p bytes s = .ok (t, data)) : s.Keeps t := by
  obtain ⟨r, hr, h⟩ := withRecord_ok h
  obtain ⟨hs, h⟩ := inState_ok (allowed_ok h)
  rw [← verdict_ok_inj (guarded_ok h)]
  exact keeps_settleFrom ((keeps_endStage hr (by simpa using hs) _).trans
    (keeps_modify _ _ Record.alike_remind Record.givenLevel_remind)) s

theorem keeps_start (h : startBody p bytes s = .ok (t, data)) : s.Keeps t := by
  obtain ⟨r, hr, h⟩ := withRecord_ok h
  obtain ⟨hs, h⟩ := inState_ok (allowed_ok h)
  rw [← verdict_ok_inj h]
  exact keeps_place hr (by simpa using hs)

theorem keeps_ack (h : ackBody p bytes s = .ok (t, data)) : s.Keeps t := by
  unfold ackBody at h
  dsimp only at h
  split at h
  · exact absurd h (by simp)
  obtain ⟨r, hr, h⟩ := withRecord_ok h
  rw [← verdict_ok_inj (allowed_ok h)]
  refine keeps_settleFrom (.ite (fun _ => keeps_retire s _) fun _ => ?_) s
  exact keeps_modify s _ (fun q => q.alike_alerts _) fun q => rfl

/-! ### The commands of the other units -/

theorem jumpDue_pairwise (s : State) (new : Nat) : (s.jumpDue new).Pairwise (· < ·) := by
  unfold State.jumpDue
  split
  · exact Table.slotsWhere_pairwise _ _
  · exact .nil

theorem jumpDue_allArmed (s : State) (new : Nat) : s.table.AllArmed (s.jumpDue new) := by
  intro k hk
  unfold State.jumpDue at hk
  split at hk
  · obtain ⟨-, r, hr, h⟩ := Table.mem_slotsWhere.mp hk
    exact ⟨r, hr, Record.waits_armed (.inr (Bool.and_eq_true_iff.mp h).1)⟩
  · simp at hk

theorem keeps_setClock (h : setClockBody p bytes s = .ok (t, data)) : s.Keeps t := by
  unfold setClockBody at h
  dsimp only at h
  split at h
  · exact absurd h (by simp)
  rw [← verdict_ok_inj (guarded_ok h)]
  refine (State.Keeps.of_eq (s := s) (t := s.withTime { s.time with clock := _, valid := true }) rfl rfl).trans (keeps_placeAll ?_ ?_)
  · exact (jumpDue_pairwise s _).imp fun h => Nat.ne_of_lt h
  · exact jumpDue_allArmed s _

end

/-- The records that a lowered permission retires: REMOTE-origin, ARMED or QUEUED, on the station (R36). -/
def Record.revoked (st : Nat) (r : Record) : Bool :=
  r.station == st && r.origin == .remote && (r.state == .armed || r.state == .queued)

theorem Record.revoked_not_head {st : Nat} {r : Record} (h : r.revoked st = true) : r.isHead = false := by
  simp only [Record.revoked, Bool.and_eq_true, Bool.or_eq_true, beq_iff_eq] at h
  rcases h.2 with h | h <;> simp [Record.isHead, h]

/-- None of the records that a lowered permission retires is a head, so none is replaced. -/
theorem revoked_retirable {t : Table} (hc : t.Consistent) (st : Nat) :
    t.Retirable noSlot true (t.slotsWhere (Record.revoked st)) := by
  refine ⟨Table.slotsWhere_nodup _ _, fun k hk => ?_⟩
  obtain ⟨-, r, hr, hrev⟩ := Table.mem_slotsWhere.mp hk
  have hne := (hc.nearly noSlot).head_ne_of_not_isHead hr (Record.revoked_not_head hrev) r.station
  exact ⟨r, hr, fun _ => hne, fun h => absurd h hne⟩

theorem revokeAll_spec {s : State} (hc : s.table.Consistent) (st : Nat) :
    s.table.Emptied (s.retireAll (s.table.slotsWhere (Record.revoked st)) true).table (s.table.slotsWhere (Record.revoked st))
        (s.table.slotsWhere (Record.revoked st))
      ∧ s.Keeps (s.retireAll (s.table.slotsWhere (Record.revoked st)) true) :=
  retireAll_spec hc (revoked_retirable hc st) fun _ _ _ hv => hv.elim

theorem keeps_setPermission (s : State) (st v : Nat) : s.Keeps (s.setPermission st v) := by
  refine .assuming fun hc => ?_
  have hset : s.Keeps (s.withSettings (s.settings.withValue (0x50 + st) v)) := .of_eq rfl rfl
  refine .ite (fun _ => keeps_settleFrom (hset.trans ?_) s) fun _ => hset
  exact (revokeAll_spec (s := s.withSettings (s.settings.withValue (0x50 + st) v)) hc st).2

/-- Every record of a station that is emptied may be retired without a promotion. -/
theorem station_retirable {t : Table} (st : Nat) :
    t.Retirable (· = st) false (t.slotsWhere (fun r => r.station == st)) := by
  refine ⟨Table.slotsWhere_nodup _ _, fun k hk => ?_⟩
  obtain ⟨-, r, hr, hst⟩ := Table.mem_slotsWhere.mp hk
  exact ⟨r, hr, nofun, fun _ => by simpa using hst⟩

theorem emptyStation_spec {s : State} (hc : s.table.Consistent) {st : Nat} (hst : st < 8) :
    s.table.Emptied (s.retireAll (s.table.slotsWhere (fun r => r.station == st)) false).table
        (s.table.slotsWhere (fun r => r.station == st)) (s.table.slotsWhere (fun r => r.station == st))
      ∧ s.Keeps (s.retireAll (s.table.slotsWhere (fun r => r.station == st)) false) := by
  refine retireAll_spec hc (station_retirable st) fun f k r hf hk hr => ?_
  obtain ⟨q, hq, hqst⟩ := hc.queue_rec f k (hf ▸ hst) hk
  exact Table.mem_slotsWhere.mpr ⟨Table.mem_allSlots_of_rec? hc.slots hq, q, hq, by simp [hqst, hf]⟩

theorem keeps_stationReset {s : State} {st : Nat} (hst : st < 8) : s.Keeps (s.stationReset st) :=
  .assuming fun hc => keeps_settleFrom (t := State.dropElements _ (stationElements st) s.commandSlice)
    ((emptyStation_spec hc hst).2.then_eq rfl rfl) s

/-- A state with an empty table and dark burners is in order, whatever it came from. -/
theorem keeps_of_empty {s t : State} (ht : t.table = .empty) (hb : t.burners = List.replicate 6 ⟨0, 0⟩) : s.Keeps t :=
  ⟨fun _ => ht ▸ Table.empty_consistent, fun _ _ => levelsFollow_of_empty ht hb⟩

theorem setPriority_eq (s : State) (id v : Nat) :
    s.setPriority id v = { s with settings := s.settings.withValue id v, ann := (s.setPriority id v).ann } := by
  unfold State.setPriority
  dsimp only
  split <;> rfl

theorem keeps_setItem (s : State) (id v : Nat) : s.Keeps (s.setItem id v) := by
  refine .ite (fun _ => .of_eq rfl rfl) fun _ => .ite (fun _ => ?_) fun _ => .ite (fun _ => keeps_setPermission s _ v) fun _ => .of_eq rfl rfl
  rw [setPriority_eq]
  exact .of_eq rfl rfl

section

variable {p : Port} {bytes : List Byte} {s t : State} {data : List Byte}

theorem keeps_setItemBody (h : setItemBody p bytes s = .ok (t, data)) : s.Keeps t := by
  have h := notStoring_ok (panelOnly_ok h)
  dsimp only at h
  split at h
  · exact absurd h (by simp)
  · split at h
    · rw [← verdict_ok_inj h]
      exact keeps_setItem s _ _
    · exact absurd h (by simp)

theorem keeps_grant (h : grantBody p bytes s = .ok (t, data)) : s.Keeps t := by
  have h := notStoring_ok (panelOnly_ok h)
  dsimp only at h
  split at h
  · exact absurd h (by simp)
  · rw [← verdict_ok_inj h]
    exact keeps_setPermission s _ _

theorem keeps_stationResetBody (h : stationResetBody p bytes s = .ok (t, data)) : s.Keeps t := by
  have h := panelOnly_ok h
  dsimp only at h
  split at h
  · exact absurd h (by simp)
  · rw [← verdict_ok_inj h]
    exact keeps_stationReset (by omega)

theorem keeps_softReset (h : softResetBody p bytes s = .ok (t, data)) : s.Keeps t := by
  rw [← verdict_ok_inj (panelOnly_ok h)]
  exact keeps_of_empty rfl rfl

/-- The commands that leave the table and the burners alone. -/
theorem keeps_listBody (h : listBody p bytes s = .ok (t, data)) : s.Keeps t := by
  unfold listBody at h
  dsimp only at h
  split at h
  · exact absurd h (by simp)
  · rw [← verdict_ok_inj h]; exact .refl s

theorem keeps_query (h : queryBody p bytes s = .ok (t, data)) : s.Keeps t := by
  obtain ⟨r, -, h⟩ := withRecord_ok h
  rw [← verdict_ok_inj h]; exact .refl s

theorem keeps_silence (h : silenceBody p bytes s = .ok (t, data)) : s.Keeps t := by
  unfold silenceBody at h
  split at h
  · rw [← verdict_ok_inj h]; exact .of_eq rfl rfl
  · exact absurd h (by simp)

theorem keeps_window (h : windowBody p bytes s = .ok (t, data)) : s.Keeps t := by
  have h := panelOnly_ok h
  dsimp only at h
  split at h
  · rw [← verdict_ok_inj h]; exact .of_eq rfl rfl
  · exact absurd h (by simp)

theorem keeps_storeSettings (h : storeSettingsBody p bytes s = .ok (t, data)) : s.Keeps t := by
  rw [← verdict_ok_inj (notStoring_ok (panelOnly_ok h))]
  exact .of_eq rfl rfl

theorem keeps_getItem (h : getItemBody p bytes s = .ok (t, data)) : s.Keeps t := by
  unfold getItemBody at h
  dsimp only at h
  split at h
  · exact absurd h (by simp)
  · rw [← verdict_ok_inj h]; exact .refl s

end

/-! ### The other events -/

/-- The rows of BAD_COMMAND and COMMAND_WITHOUT_CODE answer, and change nothing else. -/
theorem keeps_refusal (s : State) (p : Port) (bytes : List Byte) (c : ResultCode) :
    s.Keeps ((s.takeCommand p).conclude p (tagOf bytes) (.error c)) := by
  rw [conclude_error]
  exact .of_eq (by simp [State.answered]) (by simp [State.answered])

theorem keeps_badCommand {s t : State} (h : execBadCommand s = .next t) : s.Keeps t := by
  unfold execBadCommand at h
  injection h with h
  rw [← h]
  split
  · exact .refl s
  · split
    · exact .refl s
    · exact .ite (fun _ => .refl s) fun _ => keeps_refusal s _ _ _

theorem keeps_commandWithoutCode {s t : State} (h : execCommandWithoutCode s = .next t) : s.Keeps t := by
  unfold execCommandWithoutCode at h
  injection h with h
  rw [← h]
  split
  · exact .refl s
  · split
    · exact .refl s
    · exact keeps_refusal s _ _ _

theorem outcome_next_inj {s t : State} (h : (Host.Outcome.next s : Host.Outcome State Fault Refusal) = .next t) : s = t := by
  injection h

/-- The commands of the Command Unit. -/
theorem keeps_command {c : Instr} {code : Nat} (hcode : commandCode c = some code) {s t : State} (h : exec c s = .next t) :
    s.Keeps t := by
  cases c with
  | create => exact keeps_execute (fun _ _ _ _ _ => keeps_create) h
  | retire => exact keeps_execute (fun _ _ _ _ _ => keeps_retireBody) h
  | pause => exact keeps_execute (fun _ _ _ _ _ => keeps_pause) h
  | resume => exact keeps_execute (fun _ _ _ _ _ => keeps_resume) h
  | adjust => exact keeps_execute (fun _ _ _ _ _ => keeps_adjust) h
  | setLevel => exact keeps_execute (fun _ _ _ _ _ => keeps_setLevel) h
  | skip => exact keeps_execute (fun _ _ _ _ _ => keeps_skip) h
  | start => exact keeps_execute (fun _ _ _ _ _ => keeps_start) h
  | query => exact keeps_execute (fun _ _ _ _ _ => keeps_query) h
  | list => exact keeps_execute (fun _ _ _ _ _ => keeps_listBody) h
  | nextAlert => exact keeps_execute (fun _ _ s _ _ hb => verdict_ok_inj hb ▸ .refl s) h
  | ack => exact keeps_execute (fun _ _ _ _ _ => keeps_ack) h
  | silence => exact keeps_execute (fun _ _ _ _ _ => keeps_silence) h
  | setClock => exact keeps_execute (fun _ _ _ _ _ => keeps_setClock) h
  | window => exact keeps_execute (fun _ _ _ _ _ => keeps_window) h
  | setItem => exact keeps_execute (fun _ _ _ _ _ => keeps_setItemBody) h
  | getItem => exact keeps_execute (fun _ _ _ _ _ => keeps_getItem) h
  | storeSettings =>
    exact keeps_execute (fun _ _ _ _ _ => keeps_storeSettings) h
  | settingsStatus => exact keeps_execute (fun _ _ s _ _ hb => verdict_ok_inj hb ▸ .refl s) h
  | grant => exact keeps_execute (fun _ _ _ _ _ => keeps_grant) h
  | softReset => exact keeps_execute (fun _ _ _ _ _ => keeps_softReset) h
  | stationReset => exact keeps_execute (fun _ _ _ _ _ => keeps_stationResetBody) h
  | _ => exact absurd hcode (by simp [commandCode])

/-- The events of power, load and store. -/
theorem startPart_keeps (s : State) (radr : BitVec 2) (status : List Byte) (m : List Host.Cell) :
    s.Keeps (s.startPart radr status m) := keeps_of_empty rfl rfl

theorem keeps_exec (c : Instr) {s t : State} (h : exec c s = .next t) : s.Keeps t := by
  cases hcode : commandCode c with
  | some code => exact keeps_command hcode h
  | none =>
    cases c with
    | powerOn radr status landed => exact outcome_next_inj h ▸ startPart_keeps s _ _ _
    | resetnLow landed => exact outcome_next_inj h ▸ .ite (fun _ => .refl s) fun _ => keeps_of_empty rfl rfl
    | resetnRelease radr status => exact outcome_next_inj h ▸ .ite (fun _ => startPart_keeps s _ _ _) fun _ => .refl s
    | loadEntry => exact outcome_next_inj h ▸ .ite (fun _ => .refl s) fun _ => .of_eq (by simp) (by simp)
    | loadEnd => exact outcome_next_inj h ▸ keeps_take s _
    | sliceBoundary lines first later =>
      refine outcome_next_inj h ▸ State.Keeps.trans ?_ (keeps_crystalCycle _ _ _ _)
      exact .ite (fun _ => .refl s) fun _ => .of_eq rfl rfl
    | secondBoundary => exact outcome_next_inj h ▸ (keeps_take s _).trans (keeps_take _ _)
    | periodBoundary => exact outcome_next_inj h ▸ keeps_take s _
    | syncFall => exact outcome_next_inj h ▸ .ite (fun _ => keeps_take s _) fun _ => .refl s
    | delayDue k => exact outcome_next_inj h ▸ .ite (fun _ => keeps_take s _) fun _ => .refl s
    | offsetDue k => exact outcome_next_inj h ▸ .ite (fun _ => keeps_take s _) fun _ => .refl s
    | stageEnd k => exact outcome_next_inj h ▸ .ite (fun _ => keeps_take s _) fun _ => .refl s
    | recordEnd k => exact outcome_next_inj h ▸ .ite (fun _ => keeps_take s _) fun _ => .refl s
    | flameLoss st => exact outcome_next_inj h ▸ .ite (fun _ => keeps_take s _) fun _ => .refl s
    | soundTimeout => exact outcome_next_inj h ▸ .ite (fun _ => keeps_take s _) fun _ => .refl s
    | badCommand => exact keeps_badCommand h
    | storeWriteComplete =>
      rw [← outcome_next_inj h]
      split
      · exact .of_eq (by simp) (by simp)
      all_goals exact .refl s
    | storeWriteTimeout left =>
      rw [← outcome_next_inj h]
      split
      · exact .of_eq (by simp) (by simp)
      all_goals exact .refl s
    | commandFrameEnd bytes =>
      rw [← outcome_next_inj h]
      split
      · exact .ite (fun _ => .refl s) fun _ => .of_eq rfl rfl
      all_goals exact .refl s
    | readWindowEnd =>
      exact outcome_next_inj h ▸ .ite (fun _ => .refl s) fun _ => .ite (fun _ => .of_eq rfl rfl) fun _ => .of_eq rfl rfl
    | pcsFall => exact outcome_next_inj h ▸ .ite (fun _ => .refl s) fun _ => .of_eq rfl rfl
    | frameTypeByte type => exact outcome_next_inj h ▸ .ite (fun _ => .refl s) fun _ => .of_eq rfl rfl
    | fetchLengthByte => exact outcome_next_inj h ▸ .ite (fun _ => .refl s) fun _ => .of_eq rfl rfl
    | windowEntry => exact outcome_next_inj h ▸ .ite (fun _ => .refl s) fun _ => .of_eq rfl rfl
    | portStatusByte clockedOut => exact outcome_next_inj h ▸ .ite (fun _ => .refl s) fun _ => .of_eq rfl rfl
    | i2cAddress address read => exact outcome_next_inj h ▸ .ite (fun _ => .refl s) fun _ => .of_eq rfl rfl
    | remoteWriteFirstByte byte => exact outcome_next_inj h ▸ .ite (fun _ => .refl s) fun _ => .of_eq rfl rfl
    | remoteWriteOverlong => exact outcome_next_inj h ▸ .ite (fun _ => .refl s) fun _ => .of_eq rfl rfl
    | remoteWriteEnd rest => exact outcome_next_inj h ▸ .ite (fun _ => .refl s) fun _ => .of_eq rfl rfl
    | pcsRise => exact outcome_next_inj h ▸ .ite (fun _ => .refl s) fun _ => .of_eq rfl rfl
    | readTransactionEnd => exact outcome_next_inj h ▸ .ite (fun _ => .refl s) fun _ => .of_eq rfl rfl
    | commandWithoutCode => exact keeps_commandWithoutCode h
    | _ => exact absurd hcode (by simp [commandCode])

/-- Settles O14: each event keeps the table's order by what it does to records, and follows the heads it changes. -/
theorem stepKeepsTableConsistent : Obligations.StepKeepsTableConsistent := by
  intro s t hc hl h
  have hkeeps : s.Keeps t := by
    unfold step at h
    cases hp : s.pending with
    | nil =>
      rw [hp] at h
      rw [← outcome_next_inj h]
      exact keeps_crystalCycle s _ _ _
    | cons c rest =>
      rw [hp] at h
      exact (State.Keeps.of_eq (s := s) (t := { s with pending := rest }) rfl rfl).trans (keeps_exec c h)
  exact ⟨hkeeps.table hc, hkeeps.levels hc hl⟩

end Sys2Proof.Machine
end


section
/-! SUPPORT. An accepted command whose event the Alert Unit takes (R121), what a drop and a SOFT RESET do to each element (R106, R115), and
what a retirement and a promotion leave outside the table. -/

namespace Sys2Proof.Machine

/-! ### Frames of an event on records -/

/-- An event that leaves the host side alone changes the blocks of the records only. -/
theorem State.SameHost.eq_onRecords {s t : State} (h : s.SameHost t) : t = s.onRecords t := by
  obtain ⟨h1, h2, h3, h4, h5, h6, h7, h8, h9, h10⟩ := h
  cases t
  cases s
  simp_all [State.onRecords]

/-- The state of an accepted command whose work went through the Alert Unit: the work's own, but for the annunciator, and the reply. -/
def State.settledReply (x : State) (p : Port) (bytes data : List Byte) (a : Annunciator) : State :=
  { x.reply p { tag := tagOf bytes, code := .ok, data := data } with ann := a }

section

variable (x : State) (p : Port) (bytes data : List Byte) (a : Annunciator)

@[simp] theorem settledReply_table : (x.settledReply p bytes data a).table = x.table := by cases p <;> rfl
@[simp] theorem settledReply_burners : (x.settledReply p bytes data a).burners = x.burners := by cases p <;> rfl
@[simp] theorem settledReply_app : (x.settledReply p bytes data a).app = x.app := by cases p <;> rfl
@[simp] theorem settledReply_settings : (x.settledReply p bytes data a).settings = x.settings := by cases p <;> rfl
@[simp] theorem settledReply_ann : (x.settledReply p bytes data a).ann = a := rfl
@[simp] theorem settledReply_burner (st : Nat) : (x.settledReply p bytes data a).burner st = x.burner st := by cases p <;> rfl

end

/-- Work on records, accepted: the answer stands beside the records. -/
theorem settledReply_onRecords {s x : State} {p : Port} (h : (s.takeCommand p).SameHost x) (bytes data : List Byte)
    (a : Annunciator) :
    x.settledReply p bytes data a = (s.answered p bytes .ok data).onRecords (x.settledReply p bytes data a) := by
  obtain ⟨y, hy⟩ : ∃ y, x = (s.takeCommand p).onRecords y := ⟨x, h.eq_onRecords⟩
  subst hy
  cases p <;> rfl

/-- Its work accepts it and the Alert Unit takes the work as one event (R121). -/
theorem execute_settles {s x : State} {p : Port} {bytes data : List Byte} {code : Nat} {body}
    (h : s.Takes p code bytes) (hb : body p bytes (s.takeCommand p) = .ok (settleFrom (s.takeCommand p) x, data))
    (ha : x.ann = s.ann) :
    ∃ a, execute code body s = .next (x.settledReply p bytes data a) ∧ s.AnnTaken (x.settledReply p bytes data a) := by
  let u := s.takeCommand p
  refine ⟨(u.afterCommand (settleFrom u x)).ann, ?_, ?_⟩
  · rw [execute_takes body h, hb]
    have hx : State.afterCommand u (settleFrom u x) = { x with ann := (u.afterCommand (settleFrom u x)).ann } := by
      rw [afterCommand_eq, settleFrom_eq]
    simp only [State.conclude, State.settledReply]
    rw [hx]
    cases p <;> rfl
  · by_cases hp : x.table.pendingTable = u.table.pendingTable
    · have hsettle : settleFrom u x = x := if_pos hp
      have hann : u.ann = s.ann := takeCommand_ann s p
      refine ⟨fun _ => ?_, fun hn => absurd (by simpa [u] using hp) hn⟩
      rw [settledReply_ann, hsettle, afterCommand_same (ha.trans hann.symm), ha]
    · have hsettle : settleFrom u x = x.settle := if_neg hp
      refine ⟨fun hn => absurd (by simpa [u] using hn) hp, fun _ => ?_⟩
      have hx : ({ s with table := (x.settledReply p bytes data (u.afterCommand (settleFrom u x)).ann).table,
                          settings := (x.settledReply p bytes data (u.afterCommand (settleFrom u x)).ann).settings } :
          State).settle.ann = x.settle.ann := by
        simp only [State.settle, State.withAnn, settledReply_table, settledReply_settings, ha]
      rw [hx, settledReply_ann, hsettle]
      rfl

/-! ### Elements (R106, R115) -/

/-- A change of every element by its index, where it leaves an element out of the list as it reads. -/
theorem Apportioner.element_mapElements (a : Apportioner) {f : Nat → Element → Element} {e : Nat}
    (h : f e (Element.idle 0 0) = Element.idle 0 0) : (a.mapElements f).element e = f e (a.element e) := by
  simp only [Apportioner.mapElements, Apportioner.element, List.getD_eq_getElem?_getD, List.getElem?_map, List.getElem?_zipIdx,
    Nat.zero_add]
  cases a.elements[e]? with
  | none => exact h.symm
  | some x => rfl

/-- A dropped element is off from the slice on; another is left alone (R106). -/
theorem Apportioner.element_drop (a : Apportioner) (es : List Nat) (k e : Nat) :
    (a.drop es k).element e = if e ∈ es then
      { a.element e with on := (a.element e).on.filter (fun j => decide (j < k)), relay := false } else a.element e := by
  unfold Apportioner.drop
  rw [Apportioner.element_mapElements]
  · simp only [List.contains_iff_mem]
  · split <;> rfl

theorem Apportioner.drop_dropped (a : Apportioner) (es : List Nat) (k : Nat) : a.Dropped (a.drop es k) es k where
  dropped e he := by rw [Apportioner.element_drop, if_pos he]
  others e he := by rw [Apportioner.element_drop, if_neg he]
  rest := rfl

/-- A SOFT RESET drops an element and clears its counts and its mark (R115). -/
theorem Apportioner.element_softReset (a : Apportioner) (k : Nat) {e : Nat} (he : e < 5) :
    (a.softReset k).element e = { a.element e with
      on := (a.element e).on.filter (fun j => decide (j < k)), relay := false
      request := 0, grant := 0, delivered := 0, blocked := false } := by
  have hmem : e ∈ allElements := by
    simp only [allElements, List.mem_cons, List.not_mem_nil, or_false]; omega
  have h : (a.softReset k).element e = ((a.drop allElements k).mapElements
      (fun _ x => { x with request := 0, grant := 0, delivered := 0, blocked := false })).element e := rfl
  rw [h, Apportioner.element_mapElements, Apportioner.element_drop, if_pos hmem]
  rfl

/-- Settles O56: the reset state is written out block by block. -/
theorem softResetClearsTheBlocks : Obligations.SoftResetClearsTheBlocks := by
  intro s bytes htakes
  let u := s.takeCommand .panel
  have hslice : u.commandSlice = s.commandSlice := takeCommand_commandSlice s _
  have hexec : exec .softReset s = .next (u.conclude .panel (tagOf bytes) (.ok (u.softReset, []))) := execute_takes _ htakes
  have hburner : ∀ st, (u.conclude .panel (tagOf bytes) (.ok (u.softReset, []))).burner st = ⟨0, 0⟩ := burner_of_replicate rfl
  refine ⟨_, hexec, rfl, Table.empty_rec?, fun st => ⟨Table.empty_head st, Table.empty_queue st⟩, fun st => by rw [hburner st], rfl, rfl,
    ?_, rfl, rfl, rfl, rfl, rfl, rfl, fun e he => ?_⟩
  · show (!_ && false) = false
    exact Bool.and_false _
  · show (u.app.softReset u.commandSlice).element e = _
    rw [Apportioner.element_softReset _ _ he, hslice]
    rfl

end Sys2Proof.Machine
end


section
/-! PROOFS. RETIRE of a record (R29, R30, R77, R25): O42. -/

namespace Sys2Proof.Machine

/-! ### The effect of a promotion (R25) -/

/-- An electric station has no burner. -/
theorem burner_electric {s : State} (h : s.burners.length = 6) {st : Nat} (hst : isGas st = false) : s.burner st = ⟨0, 0⟩ := by
  have hlen : ¬ st < s.burners.length := by
    rw [h]; simpa [isGas] using hst
  rw [State.burner, List.getD_eq_getElem?_getD, List.getElem?_eq_none (by omega)]
  rfl

/-- A burner whose level follows its station's head has no level from any other record (R12). -/
theorem State.LevelsFollow.fresh {s : State} (h : s.LevelsFollow) {st n : Nat} (hn : s.table.head st ≠ n) :
    (s.burner st).level = 0 ∨ (s.burner st).source ≠ n := by
  cases hg : isGas st with
  | false => rw [burner_electric h.six hg]; exact .inl rfl
  | true =>
    have hst : st < 6 := by simpa [isGas] using hg
    by_cases h0 : (s.burner st).level = 0
    · exact .inl h0
    · exact .inr (by rwa [h.source st hst h0])

/-- The head of a station has left, and the first queued record stands in its place (R25). -/
structure State.Promoted (s t : State) (st : Nat) : Prop where
  head : t.table.head st = (s.table.queue st).headD 0
  queue : t.table.queue st = (s.table.queue st).tail
  rec?_other : ∀ j, (s.table.queue st).head? ≠ some j → t.table.rec? j = s.table.rec? j
  dark : s.table.queue st = [] → isGas st = true → (t.burner st).level = 0
  entered : ∀ n rest q, s.table.queue st = n :: rest → s.table.rec? n = some q →
    t.table.rec? n = some (q.entering s.settings) ∧ t.FirstLevel q
  others : ∀ f, f ≠ st → t.table.head f = s.table.head f ∧ t.table.queue f = s.table.queue f ∧ t.burner f = s.burner f

theorem promote_eq (s : State) (st : Nat) :
    s.promote st = { s with table := (s.promote st).table, burners := (s.promote st).burners } := by
  unfold State.promote
  split
  · rw [follow_eq]; rfl
  · rw [makeHead_eq]; rfl

theorem promote_burner_other (s : State) {st f : Nat} (h : f ≠ st) : (s.promote st).burner f = s.burner f := by
  unfold State.promote
  split
  · rw [follow_burner_other _ h]; rfl
  · rw [makeHead_burner_other _ _ h]; rfl

theorem promote_promoted {s : State} (hs : s.table.Shaped) (hb : s.burners.length = 6) {st : Nat} (hst : st < 8)
    (hq : ∀ n ∈ s.table.queue st, ∃ q, s.table.rec? n = some q ∧ q.station = st
      ∧ ((s.burner st).level = 0 ∨ (s.burner st).source ≠ n)) : s.Promoted (s.promote st) st := by
  cases hqueue : s.table.queue st with
  | nil =>
    have ht := promote_empty_table hs hst hqueue
    refine ⟨?_, ?_, fun j _ => by rw [ht, Table.rec?_setHead], fun _ hg => ?_, fun n rest q h _ => by simp [hqueue] at h,
      fun f hf => ⟨?_, by rw [ht, Table.queue_setHead], promote_burner_other s hf⟩⟩
    · rw [ht, Table.head_setHead hs.heads hst, if_pos rfl, hqueue]; rfl
    · rw [ht, Table.queue_setHead, hqueue]; rfl
    · have hlen : st < s.burners.length := by
        rw [hb]; simpa [isGas] using hg
      have : s.promote st = (s.withTable (s.table.setHead st 0)).follow st := by simp only [State.promote, hqueue]
      rw [this, follow_level (s := s.withTable (s.table.setHead st 0)) hg hlen, State.withTable_table, Table.levelOf_eq, Table.headRec?,
        Table.head_setHead hs.heads hst, if_pos rfl, Table.rec?_zero, Option.elim_none]
    · rw [ht, Table.head_setHead hs.heads hst, if_neg hf]
  | cons n rest =>
    obtain ⟨q, hq', hqst, hfresh⟩ := hq n (by rw [hqueue]; exact List.mem_cons_self)
    obtain ⟨p, hu, -, hp⟩ := promote_cons_update hs hst hqueue hq'
    refine ⟨?_, ?_, fun j hj => ?_, fun h => by simp [hqueue] at h, fun m rest' q' h hm => ?_, fun f hf =>
      ⟨hu.head_other hf, hu.queue_other hf, promote_burner_other s hf⟩⟩
    · rw [hu.head_same, hqueue]; rfl
    · rw [hu.queue_same, hqueue]; rfl
    · refine hu.rec?_other fun he => hj ?_
      rw [hqueue, he]; rfl
    · obtain ⟨rfl, rfl⟩ := List.cons.inj (hqueue.symm.trans h)
      obtain rfl := Option.some.inj (hq'.symm.trans hm)
      refine ⟨by rw [hu.rec?_same, hp hfresh, Record.entering_eq, hqst], fun hg g hstage => ?_⟩
      have hshaped : (s.table.setQueue st rest).Shaped := ⟨hs.slots, hs.heads, by simpa using hs.queues⟩
      rw [hqst] at hg ⊢
      rw [promote_cons hqueue, makeHead_level (s := s.withTable (s.table.setQueue st rest)) hshaped hst hq' hg hb, hstage,
        Option.elim_some]

/-! ### The retired record and those beside it -/

/-- A record that waits on nothing of the sort is not cut. -/
theorem Record.cut_of_not_waits {k : Nat} {exempt : List Nat} {j : Nat} {r : Record} (h : r.waitsOn k = false) :
    r.cut k exempt j = r := if_neg (by simp [h])

theorem Record.cut_of_waits {k j : Nat} {r : Record} (h : r.waitsOn k = true) : r.cut k [] j = r.detach :=
  if_pos ⟨h, List.not_mem_nil⟩

/-- A queued record waits on no record. -/
theorem Record.waitsOn_queued {r : Record} (h : r.state = .queued) (k : Nat) : r.waitsOn k = false := by
  simp [Record.waitsOn, Record.holdsLink, h]

/-- A head is in no queue. -/
theorem Table.Nearly.filter_queue_head {t : Table} {V D : Nat → Prop} (hn : t.Nearly V D) {k : Nat} {r : Record}
    (hr : t.rec? k = some r) (hk : t.head r.station = k) :
    (t.queue r.station).filter (fun q => q != k) = t.queue r.station := by
  refine List.filter_eq_self.mpr fun q hq => bne_iff_ne.mpr ?_
  rintro rfl
  obtain ⟨-, -, -, -, hne⟩ := hn.of_mem_queue (hn.station_lt hr) hq
  exact hne hk

/-- Where the retired record was head, the first of its queue has been promoted. -/
theorem removed_promoted {s : State} (hc : s.table.Consistent) (hl : s.LevelsFollow) {k : Nat} {r : Record}
    (hr : s.table.rec? k = some r) (hk : s.table.head r.station = k) :
    (s.removed k r []).Promoted ((s.removed k r []).promote r.station) r.station := by
  have hn : s.table.Nearly noSlot (· ∈ ([] : List Nat)) := hc.nearly _
  have hst := hn.station_lt hr
  have hshaped : (s.removed k r []).table.Shaped := (removed_update hn hr).shaped (released_nearly hn).shaped
  refine promote_promoted hshaped ((congrArg List.length (removed_burners s k r [])).trans hl.six) hst fun n hm => ?_
  rw [removed_queue hn hr, hn.filter_queue_head hr hk] at hm
  obtain ⟨q, hq, hqst, -, hne⟩ := hn.of_mem_queue hst hm
  have hnk : n ≠ k := fun h => hne (hk.trans h.symm)
  refine ⟨q.cut k [] n, by rw [removed_rec? hn hr, if_neg hnk, hq]; rfl, (q.alike_cut k [] n).station.trans hqst, ?_⟩
  rw [State.burner_congr (removed_burners s k r [])]
  exact hl.fresh hne

/-- A retirement touches no context: the Alert Unit takes it at the end of the event. -/
theorem retire_ann (s : State) (k : Nat) (promotes : Bool) (exempt : List Nat) : (s.retire k promotes exempt).ann = s.ann := by
  cases hr : s.table.rec? k with
  | none => rw [retire_absent hr]
  | some r =>
    have hrem : (s.removed k r exempt).ann = s.ann := by rw [removed_eq]
    rw [retire_eq hr]
    split
    · split
      · rw [promote_eq]; exact hrem
      · rw [follow_ann]; exact hrem
    · exact hrem

/-! ### The retirement of one record, read by the state before it (R29) -/

section

variable {s : State} {k : Nat} {r : Record}

/-- Every record but the one promoted: the slot is EMPTY, and the records that waited on it are detached. -/
theorem retire_rec? (hc : s.table.Consistent) (hl : s.LevelsFollow) (hr : s.table.rec? k = some r) {d : Nat}
    (hd : s.table.head r.station = k → (s.table.queue r.station).head? ≠ some d) :
    (s.retire k true []).table.rec? d = if d = k then none else (s.table.rec? d).map (Record.cut k [] d) := by
  have hn : s.table.Nearly noSlot (· ∈ ([] : List Nat)) := hc.nearly _
  rw [retire_eq hr, ← removed_rec? hn hr]
  split
  · next hk =>
    refine (removed_promoted hc hl hr hk).rec?_other d ?_
    rw [removed_queue hn hr, hn.filter_queue_head hr hk]
    exact hd hk
  · rfl

/-- The stations of the other records. -/
theorem retire_other_station (hc : s.table.Consistent) (hl : s.LevelsFollow) (hr : s.table.rec? k = some r) {f : Nat}
    (hf : f ≠ r.station) : (s.retire k true []).table.head f = s.table.head f ∧ (s.retire k true []).table.queue f = s.table.queue f
      ∧ (s.retire k true []).burner f = s.burner f := by
  have hn : s.table.Nearly noSlot (· ∈ ([] : List Nat)) := hc.nearly _
  have hhead : (s.removed k r []).table.head f = s.table.head f := removed_head hn hr f
  have hqueue : (s.removed k r []).table.queue f = s.table.queue f := by
    rw [(removed_update hn hr).queue, if_neg hf, (released_mapped hn.shaped k r []).queue]
  have hburner : (s.removed k r []).burner f = s.burner f := State.burner_congr (removed_burners s k r []) f
  rw [retire_eq hr]
  split
  · next hk =>
    obtain ⟨h1, h2, h3⟩ := (removed_promoted hc hl hr hk).others f hf
    exact ⟨h1.trans hhead, h2.trans hqueue, h3.trans hburner⟩
  · exact ⟨hhead, hqueue, hburner⟩

/-- A record that is not head leaves its station's queue, and nothing else of the station. -/
theorem retire_beside_head (hc : s.table.Consistent) (hr : s.table.rec? k = some r) (hk : s.table.head r.station ≠ k) :
    (s.retire k true []).table.head r.station = s.table.head r.station
      ∧ (s.retire k true []).table.queue r.station = (s.table.queue r.station).filter (fun q => q != k)
      ∧ (s.retire k true []).app = s.app ∧ (s.retire k true []).burners = s.burners := by
  have hn : s.table.Nearly noSlot (· ∈ ([] : List Nat)) := hc.nearly _
  rw [retire_eq hr, if_neg hk]
  refine ⟨removed_head hn hr _, removed_queue hn hr _, ?_, removed_burners s k r []⟩
  rw [removed_eq]
  exact if_neg hk

/-- A head drops its station's elements, and the first record of the queue enters in its place. -/
theorem retire_head (hc : s.table.Consistent) (hl : s.LevelsFollow) (hr : s.table.rec? k = some r)
    (hk : s.table.head r.station = k) :
    let t := s.retire k true []
    t.table.head r.station = (s.table.queue r.station).headD 0 ∧ t.table.queue r.station = (s.table.queue r.station).tail
      ∧ s.app.Dropped t.app (stationElements r.station) s.commandSlice
      ∧ (s.table.queue r.station = [] → isGas r.station = true → (t.burner r.station).level = 0)
      ∧ ∀ n rest, s.table.queue r.station = n :: rest → ∃ q, s.table.rec? n = some q
          ∧ t.table.rec? n = some (q.entering s.settings) ∧ t.FirstLevel q := by
  have hn : s.table.Nearly noSlot (· ∈ ([] : List Nat)) := hc.nearly _
  have hp := removed_promoted hc hl hr hk
  have hqueue : (s.removed k r []).table.queue r.station = s.table.queue r.station := by
    rw [removed_queue hn hr, hn.filter_queue_head hr hk]
  have hx : s.retire k true [] = (s.removed k r []).promote r.station := (retire_eq hr true []).trans (if_pos hk)
  have happ : (s.retire k true []).app = s.app.drop (stationElements r.station) s.commandSlice := by
    rw [hx, promote_eq, removed_eq]
    exact if_pos hk
  have hset : (s.removed k r []).settings = s.settings := by rw [removed_eq]
  refine ⟨by rw [hx, hp.head, hqueue], by rw [hx, hp.queue, hqueue], happ ▸ Apportioner.drop_dropped _ _ _, fun hempty hgas => ?_,
    fun n rest hcons => ?_⟩
  · rw [hx]
    exact hp.dark (hqueue.trans hempty) hgas
  · obtain ⟨q, hq, -, hqs, hne⟩ := hn.of_mem_queue (hn.station_lt hr) (hcons ▸ List.mem_cons_self)
    have hnk : n ≠ k := fun h => hne (hk.trans h.symm)
    obtain ⟨hent, hlevel⟩ := hp.entered n rest q (hqueue.trans hcons) (by
      rw [removed_rec? hn hr, if_neg hnk, hq, Option.map_some, Record.cut_of_not_waits (Record.waitsOn_queued hqs k)])
    rw [hx, hent, hset]
    exact ⟨q, hq, rfl, hlevel⟩

end

/-- The work of an accepted RETIRE. -/
theorem retireBody_accepts {s : State} {p : Port} {bytes : List Byte} {r : Record} (h : s.Reaches p bytes r)
    (hgate : p = .remote → isGas r.station = true → s.table.head r.station = field bytes 2 1 → s.table.queue r.station = []) :
    retireBody p bytes (s.takeCommand p) = .ok (settleFrom (s.takeCommand p) ((s.takeCommand p).retire (field bytes 2 1) true []), []) := by
  unfold retireBody
  rw [withRecord_reaches h, allowed_reaches h false (fun _ _ => rfl)]
  refine if_neg ?_
  simp only [State.retirePromotesGas, Bool.and_eq_true, beq_iff_eq, takeCommand_table, Bool.not_eq_true', List.isEmpty_eq_false_iff]
  exact fun ⟨hp, ⟨hgas, hhead⟩, hqueue⟩ => hqueue (hgate hp hgas hhead)

/-- Settles O42: the slot removed, and where it was its station's head the promotion after it. -/
theorem retireEmptiesTheSlot : Obligations.RetireEmptiesTheSlot := by
  intro s p bytes r k st hc hl htakes hreach hgate
  let u := s.takeCommand p
  have hcu : u.table.Consistent := by simpa [u] using hc
  have hlu : u.LevelsFollow := takeCommand_levelsFollow hl p
  have hr : u.table.rec? k = some r := by simpa [u] using hreach.record
  obtain ⟨a, hexec, htaken⟩ := execute_settles htakes (retireBody_accepts hreach hgate)
    ((retire_ann u k true []).trans (takeCommand_ann s p))
  have hqueued : ∀ d q, s.table.rec? d = some q → u.table.head st = k → (u.table.queue st).head? = some d →
      q.state = .queued ∧ d ≠ k := fun d q hq hk hd => by
    have hn : u.table.Nearly noSlot noSlot := hcu.nearly _
    obtain ⟨p, hp, -, hqueued, hne⟩ := hn.of_mem_queue (hn.station_lt hr) (List.mem_of_mem_head? hd)
    rw [takeCommand_table] at hp
    rw [Option.some.inj (hq.symm.trans hp)]
    exact ⟨hqueued, fun h => hne (hk.trans h.symm)⟩
  refine ⟨_, hexec, settledReply_onRecords (retire_sameHost u k true []) _ _ _, ?_, fun d q hq hw hd => ?_,
    fun d q hq hw hd hne => ?_, fun hk => ?_, fun hk => ?_, htaken, fun f hf => ?_⟩
  · rw [settledReply_table, retire_rec? hcu hlu hr fun hk hd => (hqueued k r hreach.record hk hd).2 rfl, if_pos rfl]
  · rw [settledReply_table, retire_rec? hcu hlu hr fun hk hd' => ?_, if_neg hd, takeCommand_table, hq, Option.map_some,
      Record.cut_of_waits hw, Record.detach_eq]
    rw [Record.waitsOn_queued (hqueued d q hq hk hd').1] at hw
    exact Bool.false_ne_true hw
  · rw [settledReply_table, retire_rec? hcu hlu hr (by simpa [u] using hne), if_neg hd, takeCommand_table, hq, Option.map_some,
      Record.cut_of_not_waits hw]
  · simpa [u] using retire_beside_head hcu hr (by simpa [u] using hk)
  · simpa [u, State.FirstLevel] using retire_head hcu hlu hr (by simpa [u] using hk)
  · simpa [u] using retire_other_station hcu hlu hr hf

end Sys2Proof.Machine
end


section
/-! PROOFS. ACK of an alert (R31, R131, R155): O49. -/

namespace Sys2Proof.Machine

/-! ### Flags and slots -/

/-- Head references that read alike are the same. -/
theorem Table.heads_ext {t t' : Table} (hlen : t'.heads.length = t.heads.length) (h : ∀ f, t'.head f = t.head f) :
    t'.heads = t.heads := by
  refine List.ext_getElem hlen fun f h1 h2 => ?_
  simpa [Table.head, List.getD_eq_getElem?_getD, h1, h2] using h f

/-- Writing a record back where it stands changes nothing. -/
theorem Table.put_self {t : Table} {k : Nat} {r : Record} (h : t.rec? k = some r) : t.put k (some r) = t := by
  obtain ⟨hk, hlen⟩ := Table.rec?_some_pos h
  have hk0 : k ≠ 0 := by omega
  have hget : t.slots[k - 1]? = some (some r) := by
    simp only [Table.rec?, hk0, if_false, List.getD_eq_getElem?_getD] at h
    cases hs : t.slots[k - 1]? with
    | none => simp [hs] at h
    | some o => rw [hs] at h; exact congrArg some h
  simp only [Table.put, hk0, if_false]
  congr 1
  refine List.ext_getElem? fun i => ?_
  rw [List.getElem?_set]
  split
  · next hi => rw [← hi, hget]
  · rfl

theorem AlertKind.ofNum?_num (kind : AlertKind) : AlertKind.ofNum? kind.num = some kind := by cases kind <;> rfl

/-- The mask of a kind has the bit of the kind alone. -/
theorem AlertKind.mask_getLsbD (a b : AlertKind) : a.mask.getLsbD b.num = decide (b = a) := by
  cases a <;> cases b <;> rfl

/-- Clearing a kind clears its flag and keeps the others (R131). -/
theorem Record.hasAlert_clear (kind other : AlertKind) (r : Record) :
    (r.clear kind).hasAlert other = (r.hasAlert other && decide (other ≠ kind)) := by
  have hlt : other.num < 6 := by cases other <;> decide
  simp only [Record.clear, Record.hasAlert, BitVec.getLsbD_and, BitVec.getLsbD_not, AlertKind.mask_getLsbD, hlt, decide_true,
    Bool.true_and, decide_not]

/-- Clearing a flag that is not set changes nothing. -/
theorem Record.clear_of_not_hasAlert {kind : AlertKind} {r : Record} (h : r.hasAlert kind = false) : r.clear kind = r := by
  have halerts : r.alerts &&& ~~~kind.mask = r.alerts := by
    refine BitVec.eq_of_getLsbD_eq fun i hi => ?_
    obtain ⟨b, rfl⟩ : ∃ b : AlertKind, b.num = i := by
      have : i = 0 ∨ i = 1 ∨ i = 2 ∨ i = 3 ∨ i = 4 ∨ i = 5 := by omega
      rcases this with rfl | rfl | rfl | rfl | rfl | rfl
      exacts [⟨.flameLost, rfl⟩, ⟨.recordEnd, rfl⟩, ⟨.starved, rfl⟩, ⟨.linkBroken, rfl⟩, ⟨.stageEnd, rfl⟩, ⟨.reminder, rfl⟩]
    have hb := Record.hasAlert_clear kind b r
    by_cases he : b = kind
    · rw [he] at hb ⊢
      exact (hb.trans (by simp)).trans h.symm
    · exact hb.trans (by simp [he, Record.hasAlert])
  rw [Record.clear, halerts]

/-! ### The command -/

/-- The work of an accepted ACK. -/
theorem ackBody_accepts {s : State} {p : Port} {bytes : List Byte} {r : Record} {kind : AlertKind} (h : s.Reaches p bytes r)
    (hkind : field bytes 3 1 = kind.num) :
    ackBody p bytes (s.takeCommand p)
      = .ok (settleFrom (s.takeCommand p) ((s.takeCommand p).acknowledge (field bytes 2 1) kind r), []) := by
  simp only [ackBody, hkind, AlertKind.ofNum?_num]
  rw [withRecord_reaches h, allowed_reaches h false (fun _ _ => rfl)]

/-- Only the end of a record that has left its station is acknowledged by a retirement (R31). -/
theorem acknowledge_eq (s : State) (k : Nat) (kind : AlertKind) (r : Record) :
    s.acknowledge k kind r = if kind = .recordEnd ∧ r.state = .ended ∧ r.keep = false then s.retire k true []
      else s.modify k (Record.clear kind) :=
  if_congr (by simp [and_assoc]) rfl rfl

/-- Settles O49: the flag cleared in place, or the retirement of a record that is not head. -/
theorem ackClearsTheFlag : Obligations.AckClearsTheFlag := by
  intro s p bytes r kind k hc htakes hreach hkind
  let u := s.takeCommand p
  have hcu : u.table.Consistent := by simpa [u] using hc
  have hr : u.table.rec? k = some r := by simpa [u] using hreach.record
  refine ⟨fun hnot => ?_, fun hrecord hended hkeep => ?_⟩
  · have hx : u.acknowledge k kind r = u.modify k (Record.clear kind) := (acknowledge_eq ..).trans (if_neg hnot)
    have hbody := ackBody_accepts hreach hkind
    rw [hx] at hbody
    obtain ⟨a, hexec, htaken⟩ := execute_settles htakes hbody (takeCommand_ann s p)
    have htable : (u.modify k (Record.clear kind)).table = s.table.put k (some (r.clear kind)) := by
      rw [← takeCommand_table s p]
      exact Table.modify_eq_put hr _
    refine ⟨_, r.clear kind, hexec, ?_, htaken, fun hclear => htaken.1 ?_, rfl, by simp [Record.hasAlert_clear],
      fun other hne => by simp [Record.hasAlert_clear, hne]⟩
    · rw [← htable, settledReply_ann]
      cases p <;> rfl
    · rw [settledReply_table, htable, Record.clear_of_not_hasAlert hclear, Table.put_self hreach.record]
  · have hn : u.table.Nearly noSlot (· ∈ ([] : List Nat)) := hcu.nearly _
    have hhead : u.table.head r.station ≠ k := hn.head_ne_of_not_isHead hr (by simp [Record.isHead, hended, hkeep]) _
    have hx : u.acknowledge k kind r = u.removed k r [] := by
      rw [acknowledge_eq, if_pos ⟨hrecord, hended, hkeep⟩, retire_eq hr, if_neg hhead]
    have hframe : u.removed k r [] = { u with
        table := (u.removed k r []).table, todo := u.todo.filter (fun w => w != .released k) } := by
      conv_lhs => rw [removed_eq]
      rw [if_neg hhead]
    have hbody := ackBody_accepts hreach hkind
    rw [hx] at hbody
    obtain ⟨a, hexec, htaken⟩ := execute_settles htakes hbody (by rw [hframe]; exact takeCommand_ann s p)
    have hrec := removed_rec? (exempt := []) hn hr
    refine ⟨_, hexec, ?_, ?_, ?_, htaken, fun d q hq hd hw => ?_⟩
    · generalize (u.removed k r []).table = tb at hframe
      rw [hframe]
      cases p <;> rfl
    · rw [settledReply_table, hrec, if_pos rfl]
    · rw [settledReply_table, ← takeCommand_table s p]
      refine Table.heads_ext ?_ (removed_head hn hr)
      rw [(removed_update hn hr).heads, (released_mapped hn.shaped k r []).heads]
    · rw [settledReply_table, hrec, if_neg hd, takeCommand_table, hq, Option.map_some, Record.cut_of_not_waits hw]

end Sys2Proof.Machine
end


section
/-! PROOFS. Sets of records retired at one event: a lowered permission and a STATION RESET (R36, R37, R39, R149, R158): O54, O57. -/

namespace Sys2Proof.Machine

/-! ### What a set of retirements reads back as -/

theorem Table.queue_beyond {t : Table} (h : t.queues.length = 8) {st : Nat} (hst : ¬ st < 8) : t.queue st = [] := by
  rw [Table.queue, List.getD_eq_getElem?_getD, List.getElem?_eq_none (by omega)]
  rfl

theorem Table.Consistent.mem_slotsWhere {t : Table} (hc : t.Consistent) {p : Record → Bool} {k : Nat} :
    k ∈ t.slotsWhere p ↔ (t.rec? k).any p = true := by
  rw [Table.mem_slotsWhere]
  cases hr : t.rec? k with
  | none => simp
  | some r => simp [Table.mem_allSlots_of_rec? hc.slots hr]

/-- A queued slot holds a record of the queue's station. -/
theorem Table.Consistent.of_mem_queue {t : Table} (hc : t.Consistent) {st k : Nat} (hk : k ∈ t.queue st) :
    ∃ r, t.rec? k = some r ∧ r.station = st := by
  by_cases hst : st < 8
  · exact hc.queue_rec st k hst hk
  · rw [Table.queue_beyond hc.queues hst] at hk
    exact absurd hk List.not_mem_nil

/-- A head reference other than 0 names a record of its station. -/
theorem Table.Consistent.of_head {t : Table} (hc : t.Consistent) {st : Nat} (h : t.head st ≠ 0) :
    ∃ r, t.rec? (t.head st) = some r ∧ r.station = st :=
  hc.head_rec st (by_contra fun hst => h (Table.head_beyond hc.heads hst)) h

/-- The records that satisfy p are gone, those that waited on one of them are detached, and the others stay. -/
theorem Table.Emptied.rec?_where {t t' : Table} {p : Record → Bool} (hc : t.Consistent)
    (he : t.Emptied t' (t.slotsWhere p) (t.slotsWhere p)) {k : Nat} {r : Record} (hr : t.rec? k = some r) :
    t'.rec? k = if p r = true then none
      else if r.holdsLink = true ∧ (t.rec? r.start.linked).any p = true then some r.detach else some r := by
  have hmem : k ∈ t.slotsWhere p ↔ p r = true := by rw [hc.mem_slotsWhere, hr]; rfl
  rw [he.rec?, hr]
  refine ite_congr (propext hmem) (fun _ => rfl) fun hp => ?_
  rw [Option.map_some, apply_ite some]
  exact if_congr (by simp [hc.mem_slotsWhere, hr, hp]) rfl rfl

/-- The queues lose the records that satisfy p. -/
theorem Table.Emptied.queue_where {t t' : Table} {p : Record → Bool} (hc : t.Consistent)
    (he : t.Emptied t' (t.slotsWhere p) (t.slotsWhere p)) (st : Nat) :
    t'.queue st = (t.queue st).filter (fun k => !(t.rec? k).any p) := by
  rw [he.queue]
  refine List.filter_congr fun k _ => congrArg _ (Bool.eq_iff_iff.mpr ?_)
  rw [List.contains_iff_mem]
  exact hc.mem_slotsWhere

/-- The queue of a station none of whose records satisfies p stays. -/
theorem Table.Emptied.queue_kept {t t' : Table} {p : Record → Bool} (hc : t.Consistent)
    (he : t.Emptied t' (t.slotsWhere p) (t.slotsWhere p)) {st : Nat} (h : ∀ r : Record, r.station = st → p r = false) :
    t'.queue st = t.queue st := by
  rw [he.queue_where hc]
  refine List.filter_eq_self.mpr fun k hk => ?_
  obtain ⟨r, hr, hst⟩ := hc.of_mem_queue hk
  simp [hr, h r hst]

/-- A head that does not satisfy p stays. -/
theorem Table.Emptied.head_kept {t t' : Table} {p : Record → Bool} (hc : t.Consistent)
    (he : t.Emptied t' (t.slotsWhere p) (t.slotsWhere p)) {st : Nat} (h : ∀ r, t.rec? (t.head st) = some r → r.station = st → p r = false) :
    t'.head st = t.head st := by
  rw [he.head]
  refine ite_eq_right_iff.mpr fun hm => ?_
  by_cases h0 : t.head st = 0
  · exact h0.symm
  · obtain ⟨r, hr, hst⟩ := hc.of_head h0
    rw [hc.mem_slotsWhere, hr] at hm
    exact absurd hm (by simp [h r hr hst])

/-! ### A lowered permission (R36) -/

/-- Retirements of records none of which is head change the table and the notes alone. -/
theorem foldl_retire_frame {V : Nat → Prop} {exempt ks : List Nat} {s : State} (hn : s.table.Nearly V (· ∈ exempt))
    (hk : s.table.Retirable V true ks) :
    ∃ table todo, ks.foldl (fun s k => s.retire k true exempt) s = { s with table := table, todo := todo } := by
  induction ks generalizing s with
  | nil => exact ⟨s.table, s.todo, rfl⟩
  | cons k ks ih =>
    obtain ⟨r, hr, hp, hV⟩ := hk.present k List.mem_cons_self
    have hframe : ∃ table todo, s.retire k true exempt = { s with table := table, todo := todo } := by
      rw [retire_eq hr, if_neg (hp rfl), removed_eq, if_neg (hp rfl)]
      exact ⟨_, _, rfl⟩
    obtain ⟨tb, td, hrest⟩ := ih (retire_nearly hn hr hp hV) (hk.tail (retire_emptied (exempt := exempt) hn hr hp))
    obtain ⟨tb', td', hfirst⟩ := hframe
    exact ⟨tb, td, hrest.trans (by rw [hfirst])⟩

/-- A value that is not 0 stands in the list, so it reads back once replaced. -/
theorem SettingsUnit.value_withValue {u : SettingsUnit} {id : Nat} (h : u.value id ≠ 0) (v : Nat) : (u.withValue id v).value id = v := by
  have hlt : itemIndex id < u.values.length := by
    refine by_contra fun hn => h ?_
    rw [SettingsUnit.value, List.getD_eq_getElem?_getD, List.getElem?_eq_none (by omega)]
    rfl
  simp [SettingsUnit.value, SettingsUnit.withValue, hlt]

/-- The work of a lowering from FULL, before the Alert Unit's part. -/
def State.revoke (s : State) (st v : Nat) : State :=
  (s.withSettings (s.settings.withValue (0x50 + st) v)).retireAll (s.table.slotsWhere (Record.revoked st)) true

theorem setPermission_lowers {s : State} {st v : Nat} (h : s.settings.permission st = 2) (hv : v ≠ 2) :
    s.setPermission st v = settleFrom s (s.revoke st v) := if_pos ⟨h, hv⟩

theorem revoke_eq {s : State} (hc : s.table.Consistent) (st v : Nat) :
    s.revoke st v = { s with
      settings := s.settings.withValue (0x50 + st) v, table := (s.revoke st v).table, todo := (s.revoke st v).todo } := by
  obtain ⟨table, todo, h⟩ : ∃ table todo, s.revoke st v = { s.withSettings (s.settings.withValue (0x50 + st) v) with
      table := table, todo := todo } :=
    foldl_retire_frame (s := s.withSettings (s.settings.withValue (0x50 + st) v)) (hc.nearly _) (revoked_retirable hc st)
  rw [h]
  rfl

theorem revoke_emptied {s : State} (hc : s.table.Consistent) (st v : Nat) :
    s.table.Emptied (s.revoke st v).table (s.table.slotsWhere (Record.revoked st)) (s.table.slotsWhere (Record.revoked st)) :=
  (revokeAll_spec (s := s.withSettings (s.settings.withValue (0x50 + st) v)) hc st).1

/-- A permission item takes 0, 1 and 2. -/
theorem permission_item {st : Nat} (h : st ≤ 7) : ∃ i it, itemAt (0x50 + st) = some (i, it) ∧ it.id = 0x50 + st
    ∧ ∀ v, v ≤ 2 → itemAccepts it v = true := by
  have hall : ∀ n, n ≤ 7 → ∃ i, itemAt (0x50 + n) = some (i, ⟨0x50 + n, 0, 2, 1, 1⟩) := by
    intro n hn
    interval_cases n
    all_goals exact ⟨_, rfl⟩
  obtain ⟨i, hi⟩ := hall st h
  exact ⟨i, _, hi, rfl, fun v hv => by simp [itemAccepts, hv, Nat.mod_one]⟩

/-- The work of the two commands that lower a permission from FULL, with their answers (R149, R172). -/
theorem lowering_accepts {s : State} {c : Instr} {code st v : Nat} {bytes data : List Byte}
    (hcmd : (c = .grant ∧ code = 0x60 ∧ field bytes 2 1 = st ∧ field bytes 3 1 = v ∧ data = [2#8])
      ∨ (c = .setItem ∧ code = 0x50 ∧ field bytes 2 2 = 0x50 + st ∧ field bytes 4 4 = v
        ∧ data = leBytes 2 (0x50 + st) ++ leBytes 4 v))
    (hc : s.table.Consistent) (hstore : s.settings.storing = false) (hst : st ≤ 7) (hv : v < 2)
    (hfull : s.settings.permission st = 2) :
    ∃ body, (∀ t, exec c t = execute code body t)
      ∧ body .panel bytes (s.takeCommand .panel)
        = .ok (settleFrom (s.takeCommand .panel) ((s.takeCommand .panel).revoke st v), data) := by
  let u := s.takeCommand .panel
  have hfull' : u.settings.permission st = 2 := hfull
  have hstore' : u.settings.storing = false := hstore
  have hlower := setPermission_lowers hfull' (by omega : v ≠ 2)
  rcases hcmd with ⟨rfl, rfl, hf, hg, rfl⟩ | ⟨rfl, rfl, hf, hg, rfl⟩
  · refine ⟨grantBody, fun _ => rfl, ?_⟩
    simp only [grantBody, panelOnly, State.notStoring, hf, hg]
    rw [if_neg (by simp [hstore]), if_neg (by omega), hlower, hfull']
    rfl
  · obtain ⟨i, it, hitem, hid, haccepts⟩ := permission_item hst
    have hset : u.setItem (0x50 + st) v = settleFrom u (u.revoke st v) := by
      have hb : ¬ 0x50 + st = Config.budgetId := by simp only [Config.budgetId]; omega
      rw [State.setItem, if_neg hb, if_neg (by omega), if_pos (by omega), Nat.add_sub_cancel_left, hlower]
    have hvalue : (settleFrom u (u.revoke st v)).settings.value (0x50 + st) = v := by
      rw [settleFrom_eq, revoke_eq (by simpa [u] using hc)]
      exact SettingsUnit.value_withValue (by rw [← SettingsUnit.permission, hfull']; decide) v
    have haccept : u.settings.acceptsItem it v = true := by
      rw [SettingsUnit.acceptsItem, haccepts v (by omega), hid, Bool.true_and, Bool.or_eq_true, bne_iff_ne]
      exact .inl (by simp only [Config.shedId]; omega)
    refine ⟨setItemBody, fun _ => rfl, ?_⟩
    simp only [setItemBody, panelOnly, State.notStoring, hf, hg, hitem]
    rw [if_neg (by simp [hstore]), if_pos haccept, hset, if_neg (by simp only [Config.budgetId]; omega), List.append_nil,
      State.itemBytes, hvalue]

/-- Settles O54: none of the set is a head, so the retirements leave heads, burners and elements alone. -/
theorem permissionLoweringRetires : Obligations.PermissionLoweringRetires := by
  intro s c code st v bytes data hc hcmd htakes hstore hst hv hfull leaves
  let u := s.takeCommand .panel
  obtain ⟨body, hexec, hbody⟩ := lowering_accepts hcmd hc hstore hst hv hfull
  have hframe : u.revoke st v = _ := revoke_eq (s := u) hc st v
  have he : s.table.Emptied (u.revoke st v).table (s.table.slotsWhere leaves) (s.table.slotsWhere leaves) :=
    revoke_emptied (s := u) hc st v
  obtain ⟨a, hx, htaken⟩ := execute_settles htakes hbody (by rw [hframe]; rfl)
  have hset : (u.revoke st v).settings = s.settings.withValue (0x50 + st) v := by rw [hframe]; rfl
  have hleaves : ∀ r : Record, leaves r = true → r.isHead = false := fun r h => Record.revoked_not_head (st := st) h
  refine ⟨_, (hexec s).trans hx, ?_, ?_, htaken, ?_, fun f hf => ?_, ?_, fun k => ⟨fun hr => ?_, fun r hr => ?_⟩⟩
  · generalize (u.revoke st v).table = tb, (u.revoke st v).todo = td at hframe
    rw [hframe]
    rfl
  · rw [settledReply_settings, SettingsUnit.permission, hset]
    exact SettingsUnit.value_withValue (by rw [← SettingsUnit.permission, hfull]; decide) v
  · rw [settledReply_table]
    refine Table.heads_ext he.heads fun f => he.head_kept hc fun r hr hrst => ?_
    have hhead : r.isHead = true := (hc.head_iff _ r hr).mpr (by rw [hrst])
    exact Bool.eq_false_iff.mpr fun h => by simp [hleaves r h] at hhead
  · rw [settledReply_table]
    exact he.queue_kept hc fun r hr => by simp [leaves, hr, hf]
  · rw [settledReply_table]
    exact he.queue_where hc st
  · rw [settledReply_table, he.rec?, hr, Option.map_none, ite_self]
  · rw [settledReply_table, he.rec?_where hc hr]
    rfl

end Sys2Proof.Machine
end


section
/-! PROOFS. STATION RESET (R39, R115, R134, R158): O57. -/

namespace Sys2Proof.Machine

/-! ### What retirements at one station leave outside it -/

/-- The burners and the elements of the other stations, and the contexts, are as before. -/
structure State.Besides (s t : State) (st : Nat) : Prop where
  ann : t.ann = s.ann
  burner : ∀ f, f ≠ st → t.burner f = s.burner f
  element : ∀ e, e ∉ stationElements st → t.app.element e = s.app.element e

theorem State.Besides.trans {s t u : State} {st : Nat} (h : s.Besides t st) (h' : t.Besides u st) : s.Besides u st :=
  ⟨h'.ann.trans h.ann, fun f hf => (h'.burner f hf).trans (h.burner f hf), fun e he => (h'.element e he).trans (h.element e he)⟩

theorem removed_besides (s : State) (k : Nat) (r : Record) (exempt : List Nat) : s.Besides (s.removed k r exempt) r.station where
  ann := by rw [removed_eq]
  burner := fun f _ => State.burner_congr (removed_burners s k r exempt) f
  element := fun e he => by
    rw [removed_eq]
    dsimp only
    split
    · rw [Apportioner.element_drop, if_neg he]
    · rfl

theorem follow_besides (s : State) (st : Nat) : s.Besides (s.follow st) st :=
  ⟨follow_ann s st, fun _ hf => follow_burner_other s hf, fun e _ => by rw [follow_eq]⟩

theorem retire_besides {s : State} {k : Nat} {r : Record} (hr : s.table.rec? k = some r) (exempt : List Nat) :
    s.Besides (s.retire k false exempt) r.station := by
  have h := removed_besides s k r exempt
  rw [retire_eq hr]
  split
  · rw [if_neg Bool.false_ne_true]
    have hset : (s.removed k r exempt).Besides
        ((s.removed k r exempt).withTable ((s.removed k r exempt).table.setHead r.station 0)) r.station :=
      ⟨rfl, fun _ _ => rfl, fun _ _ => rfl⟩
    exact (h.trans hset).trans (follow_besides _ _)
  · exact h

/-- A station whose head gives no level has a dark burner. -/
theorem follow_dark {s : State} {st : Nat} (hg : isGas st = true) (h : s.table.levelOf st = 0) : ((s.follow st).burner st).level = 0 := by
  by_cases hb : st < s.burners.length
  · rw [follow_level hg hb, h]
  · rw [State.burner, follow_burners hg, List.getD_eq_getElem?_getD, List.getElem?_eq_none (by simpa using hb)]
    rfl

/-- The retirement of a head without a promotion leaves its burner dark; that of another record leaves the burner alone. -/
theorem retire_level {s : State} {k : Nat} {r : Record} (hr : s.table.rec? k = some r)
    (hst : r.station < 8) (hg : isGas r.station = true) {exempt : List Nat} (hlen : (s.removed k r exempt).table.heads.length = 8) :
    ((s.retire k false exempt).burner r.station).level =
      if s.table.head r.station = k then 0 else (s.burner r.station).level := by
  rw [retire_eq hr]
  split
  · rw [if_neg Bool.false_ne_true]
    refine follow_dark hg ?_
    rw [State.withTable_table, Table.levelOf_eq, Table.headRec?, Table.head_setHead hlen hst, if_pos rfl, Table.rec?_zero,
      Option.elim_none]
  · rw [State.burner_congr (removed_burners s k r exempt)]

/-- Retirements without a promotion at one station: what stands beside it, and its burner once the head is gone. -/
theorem foldl_retire_station {V : Nat → Prop} {exempt ks : List Nat} {st : Nat} {s : State} (hn : s.table.Nearly V (· ∈ exempt))
    (hk : s.table.Retirable V false ks) (hst : ∀ k ∈ ks, ∀ r, s.table.rec? k = some r → r.station = st) :
    let t := ks.foldl (fun s k => s.retire k false exempt) s
    s.Besides t st ∧ (isGas st = true → s.table.head st ∈ ks ∨ (s.burner st).level = 0 → (t.burner st).level = 0) := by
  induction ks generalizing s with
  | nil => exact ⟨⟨rfl, fun _ _ => rfl, fun _ _ => rfl⟩, fun _ h => h.resolve_left List.not_mem_nil⟩
  | cons k ks ih =>
    obtain ⟨r, hr, hp, hV⟩ := hk.present k List.mem_cons_self
    obtain rfl := hst k List.mem_cons_self r hr
    have he := retire_emptied (exempt := exempt) hn hr hp
    have hrest : ∀ j ∈ ks, ∀ q, (s.retire k false exempt).table.rec? j = some q → q.station = r.station := fun j hj q hq => by
      rw [he.rec?] at hq
      split at hq
      · exact absurd hq (by simp)
      · obtain ⟨p, hp, rfl⟩ := Option.map_eq_some_iff.mp hq
        have := hst j (List.mem_cons_of_mem _ hj) p hp
        split <;> exact this
    obtain ⟨hbeside, hdark⟩ := ih (retire_nearly hn hr hp hV) (hk.tail he) hrest
    refine ⟨(retire_besides hr exempt).trans hbeside, fun hg h => hdark hg ?_⟩
    have hlen : (s.removed k r exempt).table.heads.length = 8 := by
      rw [(removed_update hn hr).heads, (released_nearly hn).heads]
    rw [retire_level hr (hn.station_lt hr) hg hlen, he.head]
    by_cases hhead : s.table.head r.station = k
    · exact .inr (if_pos hhead)
    · rw [if_neg (by simpa using hhead), if_neg hhead]
      exact h.imp_left fun hm => (List.mem_cons.mp hm).resolve_left hhead

/-! ### The command -/

/-- The work of a STATION RESET before the Alert Unit's part. -/
def State.clearStation (s : State) (st : Nat) : State :=
  (s.retireAll (s.table.slotsWhere (fun r => r.station == st)) false).dropElements (stationElements st) s.commandSlice

/-- The work of an accepted STATION RESET. -/
theorem stationResetBody_accepts {s : State} {bytes : List Byte} (h : field bytes 2 1 ≤ 7) :
    stationResetBody .panel bytes s = .ok (settleFrom s (s.clearStation (field bytes 2 1)), []) := if_neg (by omega)

theorem clearStation_sameHost (s : State) (st : Nat) : s.SameHost (s.clearStation st) :=
  (retireAll_sameHost s _ _).trans (dropElements_sameHost _ _ _)

theorem clearStation_emptied {s : State} (hc : s.table.Consistent) {st : Nat} (hst : st < 8) :
    s.table.Emptied (s.clearStation st).table (s.table.slotsWhere (fun r => r.station == st))
      (s.table.slotsWhere (fun r => r.station == st)) := (emptyStation_spec hc hst).1

theorem clearStation_besides {s : State} (hc : s.table.Consistent) (st : Nat) :
    s.Besides (s.clearStation st) st
      ∧ (isGas st = true → s.table.head st ≠ 0 → ((s.clearStation st).burner st).level = 0) := by
  let ks := s.table.slotsWhere (fun r => r.station == st)
  have hn : s.table.Nearly (· = st) (· ∈ ks) := (hc.nearly (· ∈ ks)).mono (fun _ h => h.elim) fun _ h => h
  obtain ⟨hbeside, hdark⟩ := foldl_retire_station (st := st) hn (station_retirable st) fun k hk r hr => by
    rw [hc.mem_slotsWhere, hr] at hk
    simpa using hk
  have hdrop : (s.retireAll ks false).Besides (s.clearStation st) st := ⟨rfl, fun _ _ => rfl, fun e he => by
    show Apportioner.element (Apportioner.drop _ _ _) e = _
    rw [Apportioner.element_drop, if_neg he]⟩
  refine ⟨hbeside.trans hdrop, fun hg hhead => hdark hg (.inl ?_)⟩
  obtain ⟨r, hr, hst⟩ := hc.of_head hhead
  rw [hc.mem_slotsWhere, hr]
  simp [hst]

/-- Settles O57: the records of the station are the set, so its head and its queue go with them. -/
theorem stationResetEmptiesTheStation : Obligations.StationResetEmptiesTheStation := by
  intro s bytes hc htakes hst st
  let u := s.takeCommand .panel
  have hcu : u.table.Consistent := hc
  have he := clearStation_emptied hcu (Nat.lt_succ_of_le hst)
  obtain ⟨hbeside, hdark⟩ := clearStation_besides hcu st
  obtain ⟨a, hexec, htaken⟩ := execute_settles htakes (stationResetBody_accepts hst) hbeside.ann
  have hhead : (u.clearStation st).table.head st = 0 := by
    rw [he.head]
    refine ite_eq_left_iff.mpr fun hm => by_contra fun h0 => hm ?_
    obtain ⟨r, hr, hrst⟩ := hcu.of_head h0
    rw [hcu.mem_slotsWhere, hr]
    simpa using hrst
  have hqueue : (u.clearStation st).table.queue st = [] := by
    rw [he.queue_where hcu, List.filter_eq_nil_iff]
    intro k hk
    obtain ⟨r, hr, hrst⟩ := hcu.of_mem_queue hk
    simp [hr, hrst, st]
  refine ⟨_, hexec, settledReply_onRecords (clearStation_sameHost u st) _ _ _, htaken, fun k r hr hrst => ?_, ?_, ?_, fun hlt h0 => ?_,
    fun e hm => ?_, fun e hm => ?_, fun k r hr hrst => ?_, fun f hf => ?_⟩
  · rw [settledReply_table, he.rec?_where hcu hr, if_pos (by simpa using hrst)]
  · rw [settledReply_table, hhead]
  · rw [settledReply_table, hqueue]
  · rw [settledReply_burner]
    exact hdark (by simpa [isGas] using hlt) h0
  · rw [settledReply_app]
    have hdropped : (u.clearStation st).app.element e = _ := Apportioner.element_drop _ _ _ e
    rw [hdropped, if_pos hm]
    exact ⟨rfl, fun j hj => by simpa [u] using (List.mem_filter.mp hj).2⟩
  · rw [settledReply_app]
    exact hbeside.element e hm
  · have hread := (he.rec?_where hcu hr).trans (if_neg (by simpa using hrst))
    rw [settledReply_table]
    split
    · next hcut => exact hread.trans (if_pos hcut)
    · next hcut => exact hread.trans (if_neg hcut)
  · have hout : ∀ r : Record, r.station = f → (r.station == st) = false := fun r hr => by simp [hr, hf]
    rw [settledReply_table, settledReply_burner]
    exact ⟨he.head_kept hcu fun r _ => hout r, he.queue_kept hcu hout, hbeside.burner f hf⟩

end Sys2Proof.Machine
end


section
/-! SUPPORT. Records that fall due and are placed, one by one or together at one event (R23, R68, R71). -/

namespace Sys2Proof.Machine

/-! ### One record placed (R23) -/

section

variable {s : State} {k : Nat} {r : Record}

theorem place_burner_other (hs : s.table.Shaped) (hst : r.station < 8) (hr : s.table.rec? k = some r) {f : Nat} (hf : f ≠ r.station) :
    (s.place k).burner f = s.burner f := by
  by_cases h0 : s.table.head r.station = 0
  · rw [place_head hr h0, makeHead_burner_other s k hf]
  · exact State.burner_congr (place_queue hs hst hr h0).2 f

/-- A record that falls due becomes head where there is none, and joins the queue where there is one. -/
theorem place_placed (hs : s.table.Shaped) (hl : s.LevelsFollow) (hst : r.station < 8) (hr : s.table.rec? k = some r) :
    s.Placed (s.place k) k r := by
  have hk : k ≠ 0 := Nat.pos_iff_ne_zero.mp (Table.rec?_some_pos hr).1
  have hfresh : s.table.head r.station = 0 → (s.burner r.station).level = 0 ∨ (s.burner r.station).source ≠ k := fun h0 =>
    hl.fresh (by rw [h0]; exact hk.symm)
  obtain ⟨q, h, l, hu, -⟩ := place_update hs hst hr
  refine ⟨fun h0 => ?_, fun h0 => ?_, fun j hj => hu.rec?_other hj, fun f hf =>
    ⟨hu.head_other hf, hu.queue_other hf, place_burner_other hs hst hr hf⟩⟩
  · have hent := makeHead_enters hs hst hr (hfresh h0)
    rw [place_head hr h0]
    exact ⟨hent.head_same, hent.queue_same, hent.rec?_same, fun hg g hstage => by
      rw [makeHead_level hs hst hr hg hl.six, hstage, Option.elim_some]⟩
  · obtain ⟨hjoin, hb⟩ := place_queue hs hst hr h0
    exact ⟨hjoin.head_same, hjoin.queue_same, hjoin.rec?_same, hb⟩

/-- Where the burners stand does not matter to a placed record's state: it runs in its first stage, or it is queued. -/
theorem place_stands (hs : s.table.Shaped) (hst : r.station < 8) (hr : s.table.rec? k = some r) :
    ∃ q, (s.place k).table.rec? k = some q ∧ q.station = r.station ∧ ((q.state = .running ∧ q.stage = 1) ∨ q.state = .queued) := by
  by_cases h0 : s.table.head r.station = 0
  · obtain ⟨q, hu, hq, -⟩ := makeHead_update hs hst hr
    rw [place_head hr h0]
    refine ⟨q, hu.rec?_same, ?_⟩
    rcases hq with rfl | rfl <;> exact ⟨rfl, .inl ⟨rfl, rfl⟩⟩
  · exact ⟨_, (place_queue hs hst hr h0).1.rec?_same, rfl, .inr rfl⟩

end

/-! ### Records placed together (R23) -/

theorem placeAll_stands {s : State} {D : Nat → Prop} {ks : List Nat} (hn : s.table.Nearly noSlot D) (hnodup : ks.Nodup)
    (ha : s.table.AllArmed ks) {k : Nat} {r : Record} (hk : k ∈ ks) (hr : s.table.rec? k = some r) :
    ∃ q, (s.placeAll ks).table.rec? k = some q ∧ q.station = r.station
      ∧ ((q.state = .running ∧ q.stage = 1) ∨ q.state = .queued) := by
  induction ks generalizing s with
  | nil => exact absurd hk List.not_mem_nil
  | cons j ks ih =>
    obtain ⟨hj, hks⟩ := List.nodup_cons.mp hnodup
    obtain ⟨p, hp, hpa⟩ := ha j List.mem_cons_self
    have hafter := Table.AllArmed.after_place hn (fun i hi => ha i (List.mem_cons_of_mem _ hi)) hj
    have hnear := place_nearly hn hp hpa
    by_cases hkj : k = j
    · obtain ⟨q, hq, hst, hstate⟩ := place_stands hn.shaped (hn.station_lt hr) hr
      refine ⟨q, ?_, hst, hstate⟩
      rw [← hkj] at hj hnear hafter ⊢
      exact (placeAll_rec?_other hnear hks hafter hj).trans hq
    · refine ih hnear hks hafter ((List.mem_cons.mp hk).resolve_left hkj) ?_
      rw [place_rec?_other hn.shaped (fun q hq => hn.station_lt hq) hkj, hr]

/-- Which of the slots are on a station, with the first looked at. -/
theorem Table.onStation_cons {t : Table} {k : Nat} {r : Record} (hr : t.rec? k = some r) (ks : List Nat) (st : Nat) :
    t.onStation (k :: ks) st = if r.station = st then k :: t.onStation ks st else t.onStation ks st := by
  unfold Table.onStation
  rw [List.filter_cons, hr]
  exact if_congr (by simp) rfl rfl

theorem Table.onStation_congr {t t' : Table} {ks : List Nat} (h : ∀ k ∈ ks, t'.rec? k = t.rec? k) (st : Nat) :
    t'.onStation ks st = t.onStation ks st :=
  List.filter_congr fun k hk => by rw [h k hk]

/-- Due records in ascending order of slots, placed one after another, have been placed together. -/
theorem placeAll_together {s : State} {D : Nat → Prop} {ks : List Nat} (hn : s.table.Nearly noSlot D) (hl : s.LevelsFollow)
    (hks : ks.Pairwise (· < ·)) (ha : s.table.AllArmed ks) : s.PlacedTogether (s.placeAll ks) ks := by
  induction ks generalizing s with
  | nil =>
    exact ⟨hks, fun st _ _ => ⟨rfl, (List.append_nil _).symm, rfl⟩, fun st k rest _ _ h => by simp [Table.onStation] at h,
      fun k hk => absurd hk List.not_mem_nil⟩
  | cons k ks ih =>
    obtain ⟨hlt, hrest⟩ := List.pairwise_cons.mp hks
    obtain ⟨r, hr, hra⟩ := ha k List.mem_cons_self
    have hst := hn.station_lt hr
    have hk0 : k ≠ 0 := Nat.pos_iff_ne_zero.mp (Table.rec?_some_pos hr).1
    have hnot : k ∉ ks := fun hm => Nat.lt_irrefl _ (hlt k hm)
    have hafter := Table.AllArmed.after_place hn (fun i hi => ha i (List.mem_cons_of_mem _ hi)) hnot
    have hnear := place_nearly hn hr hra
    have hp := place_placed hn.shaped hl hst hr
    have hkeep : ∀ j ∈ ks, (s.place k).table.rec? j = s.table.rec? j := fun j hj => hp.other_records j fun h => hnot (h ▸ hj)
    have hon : ∀ st, (s.place k).table.onStation ks st = s.table.onStation ks st := Table.onStation_congr hkeep
    have hcons := Table.onStation_cons hr ks
    have h := ih hnear (place_levels hn hl hr hra) hrest hafter
    have hrec : (s.placeAll (k :: ks)).table.rec? k = (s.place k).table.rec? k :=
      placeAll_rec?_other hnear (hrest.imp fun h => Nat.ne_of_lt h) hafter hnot
    have hhead : (s.place k).table.head r.station ≠ 0 := by
      by_cases h0 : s.table.head r.station = 0
      · obtain ⟨hh, -⟩ := hp.as_head h0
        rwa [hh]
      · obtain ⟨hh, -⟩ := hp.as_queued h0
        rwa [hh]
    have hjoined := h.joined r.station hst (.inl hhead)
    rw [hon] at hjoined
    refine ⟨hks, fun st h8 hcase => ?_, fun st n rest h8 h0 hfirst => ?_, fun j hj q hq => ?_⟩
    · by_cases hst' : r.station = st
      · subst hst'
        rw [hcons, if_pos rfl] at hcase ⊢
        obtain ⟨hh, hqueue, -, hb⟩ := hp.as_queued (hcase.resolve_right (List.cons_ne_nil _ _))
        exact ⟨hjoined.1.trans hh, hjoined.2.1.trans (by rw [hqueue, List.append_assoc]; rfl),
          hjoined.2.2.trans (State.burner_congr hb _)⟩
      · rw [hcons, if_neg hst'] at hcase ⊢
        obtain ⟨hh, hqueue, hb⟩ := hp.other_stations st (Ne.symm hst')
        have hj := h.joined st h8 (by rwa [hh, hon])
        rw [hon, hh, hqueue, hb] at hj
        exact hj
    · by_cases hst' : r.station = st
      · subst hst'
        rw [hcons, if_pos rfl] at hfirst
        obtain ⟨rfl, rfl⟩ := List.cons.inj hfirst
        obtain ⟨hh, hqueue, -⟩ := hp.as_head h0
        have hempty : s.table.queue r.station = [] := by_contra fun hne => hn.queue_head r.station hst id hne h0
        exact ⟨hjoined.1.trans hh, hjoined.2.1.trans (by rw [hqueue, hempty]; rfl)⟩
      · rw [hcons, if_neg hst'] at hfirst
        obtain ⟨hh, -⟩ := hp.other_stations st (Ne.symm hst')
        exact h.headed st n rest h8 (hh.trans h0) ((hon st).trans hfirst)
    · by_cases hjk : j = k
      · subst hjk
        obtain rfl := Option.some.inj (hr.symm.trans hq)
        rw [hcons, if_pos rfl, hrec]
        split
        · next hc =>
          obtain ⟨-, -, hread, hlevel⟩ := hp.as_head hc.1
          exact ⟨hread, fun hg g hstage => (congrArg Burner.level hjoined.2.2).trans (hlevel hg g hstage)⟩
        · next hc => exact (hp.as_queued fun h0 => hc ⟨h0, rfl⟩).2.2.1
      · have hjks : j ∈ ks := (List.mem_cons.mp hj).resolve_left hjk
        have hread := h.record j hjks q ((hkeep j hjks).trans hq)
        rw [hon, (place_sameHost s k).settings] at hread
        rw [hcons]
        by_cases hst' : r.station = q.station
        · rw [if_neg fun hc => hhead (hst' ▸ hc.1)] at hread
          rw [if_pos hst', if_neg fun hc => hjk (Option.some.inj hc.2).symm]
          exact hread
        · obtain ⟨hh, -⟩ := hp.other_stations q.station (Ne.symm hst')
          rw [if_neg hst']
          rwa [hh] at hread

/-- The blocks in which records placed together are read. -/
theorem State.PlacedTogether.congr {s s' t t' : State} {ks : List Nat} (h : s.PlacedTogether t ks) (hst : s'.table = s.table)
    (hsb : s'.burners = s.burners) (hss : s'.settings = s.settings) (htt : t'.table = t.table) (htb : t'.burners = t.burners) :
    s'.PlacedTogether t' ks := by
  have hs := State.burner_congr hsb
  have ht := State.burner_congr htb
  refine ⟨h.ascending, ?_, ?_, ?_⟩
  · simpa only [hst, htt, hs, ht] using h.joined
  · simpa only [hst, htt] using h.headed
  · simpa only [State.FirstLevel, hst, hss, htt, ht] using h.record

end Sys2Proof.Machine
end


section
/-! PROOFS. SET CLOCK (R71, R86, R156): O51. -/

namespace Sys2Proof.Machine

/-- The records that a clock change makes due (R71). -/
theorem mem_jumpDue {s : State} {new k : Nat} :
    k ∈ s.jumpDue new ↔ s.time.valid = true ∧ 1 ≤ clockSpan s.time.clock new ∧ clockSpan s.time.clock new ≤ 43200
      ∧ k ∈ allSlots ∧ ∃ r, s.table.rec? k = some r ∧ r.waitsClock = true
        ∧ clockCountdown s.time.clock r.start.minute ≤ clockSpan s.time.clock new := by
  unfold State.jumpDue
  split
  · next h =>
    simp only [TimeBase.jumpsForward, Bool.and_eq_true, decide_eq_true_eq] at h
    simp only [Table.mem_slotsWhere, Bool.and_eq_true, decide_eq_true_eq, h, true_and]
  · next h =>
    simp only [TimeBase.jumpsForward, Bool.and_eq_true, decide_eq_true_eq] at h
    exact ⟨fun hk => absurd hk List.not_mem_nil, fun ⟨h1, h2, h3, _⟩ => absurd ⟨⟨h1, h2⟩, h3⟩ h⟩

/-- The state that an accepted SET CLOCK leads to, before its answer. -/
def State.jumped (s : State) (new : Nat) : State :=
  (s.withTime { s.time with clock := new, valid := true }).placeAll (s.jumpDue new)

theorem jumped_eq (s : State) (new : Nat) : s.jumped new = { s with
    time := { s.time with clock := new, valid := true }, table := (s.jumped new).table, burners := (s.jumped new).burners } := by
  rw [State.jumped, placeAll_eq]
  rfl

/-- The work of an accepted SET CLOCK. -/
theorem setClockBody_accepts {s : State} {p : Port} {bytes : List Byte} (hh : field bytes 2 1 ≤ 23) (hm : field bytes 3 1 ≤ 59)
    (hs : field bytes 4 1 ≤ 59)
    (hgate : p = .remote → ∀ k r, s.table.rec? k = some r → r.waitsClock = true → isGas r.station = false) :
    setClockBody p bytes s = .ok (s.jumped (3600 * field bytes 2 1 + 60 * field bytes 3 1 + field bytes 4 1),
      clockBytes s.time.clock ++ [byteOf (flag s.time.valid)]) := by
  unfold setClockBody
  dsimp only
  rw [if_neg (by omega)]
  refine if_neg fun h => ?_
  simp only [Bool.and_eq_true, beq_iff_eq, State.jumpStartsGas, List.any_eq_true] at h
  obtain ⟨hp, k, hk, hgas⟩ := h
  obtain ⟨-, -, -, -, r, hr, hw, -⟩ := mem_jumpDue.mp hk
  rw [hr, Option.elim_some, hgate hp k r hr hw] at hgas
  exact Bool.false_ne_true hgas

/-- Settles O51: the due records are placed together, and no other record is looked at. -/
theorem setClockSetsTheReading : Obligations.SetClockSetsTheReading := by
  intro s p bytes new span hc htakes hh hm hsec hgate
  let u := s.takeCommand p
  let v := u.withTime { u.time with clock := new, valid := true }
  have htime : u.time = s.time := takeCommand_time s p
  have htable : u.table = s.table := takeCommand_table s p
  have hn : v.table.Nearly noSlot noSlot := by
    show u.table.Nearly _ _
    rw [htable]
    exact hc.nearly _
  have harmed : v.table.AllArmed (u.jumpDue new) := jumpDue_allArmed u new
  have hasc : (u.jumpDue new).Pairwise (· < ·) := jumpDue_pairwise u new
  have hnodup : (u.jumpDue new).Nodup := hasc.imp fun h => Nat.ne_of_lt h
  have hmem : ∀ k, k ∈ u.jumpDue new ↔ s.time.valid = true ∧ 1 ≤ span ∧ span ≤ 43200 ∧ k ∈ allSlots
      ∧ ∃ r, s.table.rec? k = some r ∧ r.waitsClock = true ∧ clockCountdown s.time.clock r.start.minute ≤ span := fun k => by
    rw [mem_jumpDue, htime, htable]
    rfl
  have hexec : exec .setClock s = _ := execute_accepts htakes (setClockBody_accepts hh hm hsec (by
    rw [takeCommand_table]; exact hgate)) (by rw [jumped_eq]; exact takeCommand_ann s p)
  refine ⟨_, hexec, ?_, fun k r hr => ?_, fun hl => ⟨u.jumpDue new, ?_, hmem⟩⟩
  · rw [jumped_eq]
    cases p <;> rfl
  · have hread : v.table.rec? k = some r := by
      show u.table.rec? k = _
      rw [htable, hr]
    rw [reply_table]
    split
    · next hdue =>
      obtain ⟨hw, hvalid, hlow, hhigh, hcount⟩ := hdue
      obtain ⟨q, hq, -, hstate⟩ := placeAll_stands hn hnodup harmed
        ((hmem k).mpr ⟨hvalid, hlow, hhigh, Table.mem_allSlots_of_rec? hc.slots hr, r, hr, hw, hcount⟩) hread
      exact ⟨q, hq, hstate.imp And.left id⟩
    · next hdue =>
      refine (placeAll_rec?_other hn hnodup harmed fun hk => hdue ?_).trans hread
      obtain ⟨hvalid, hlow, hhigh, -, q, hq, hw, hcount⟩ := (hmem k).mp hk
      obtain rfl := Option.some.inj (hr.symm.trans hq)
      exact ⟨hw, hvalid, hlow, hhigh, hcount⟩
  · have hlv : v.LevelsFollow := (takeCommand_levelsFollow hl p).of_eq rfl rfl
    exact (placeAll_together hn hlv hasc harmed).congr htable.symm (takeCommand_burners s p).symm (takeCommand_settings s p).symm
      (reply_table ..) (reply_burners ..)

end Sys2Proof.Machine
end


section
/-! PROOFS. CREATE and START (R18 to R20, R23, R64 to R66, R69, R73, R74, R79, R145, R146, R150, R151): O40, O41. -/

namespace Sys2Proof.Machine

/-! ### Parameters (R41, R42, R65, R150, R151) -/

theorem RawStage.acceptable_iff (st : Nat) (g : RawStage) :
    g.acceptable st = true ↔ g.level ≠ 0 ∧ g.seconds ≠ 0 ∧ (st = 6 → g.level ≤ 6) ∧ (st < 6 → g.compensated = false)
      ∧ (st ≠ 6 → g.setpoint = none) := by
  simp only [RawStage.acceptable, isGas, Bool.and_eq_true, Bool.or_eq_true, Bool.not_eq_true', bne_iff_ne, beq_iff_eq,
    decide_eq_true_eq, Bool.and_eq_false_iff, decide_eq_false_iff_not, Option.isNone_iff_eq_none, and_assoc]
  refine and_congr_right fun _ => and_congr_right fun _ => and_congr ?_ (and_congr ?_ ?_)
  · exact ⟨fun h he => h.resolve_left (fun hn => hn he), fun h => (Classical.em (st = 6)).symm.imp id h⟩
  · exact ⟨fun h hst => h.resolve_right (fun hn => hn hst), fun h => (Classical.em (st < 6)).imp h id⟩
  · exact ⟨fun h hne => h.resolve_right hne, fun h => (Classical.em (st = 6)).symm.imp h id⟩

theorem CreateParams.acceptable_iff (c : CreateParams) :
    c.acceptable = true ↔ c.station ≤ 7 ∧ c.reminder ≤ 3600 ∧ 1 ≤ c.stages.length ∧ c.stages.length ≤ 8
      ∧ ∀ g ∈ c.stages, g.level ≠ 0 ∧ g.seconds ≠ 0 ∧ (c.station = 6 → g.level ≤ 6) ∧ (c.station < 6 → g.compensated = false)
        ∧ (c.station ≠ 6 → g.setpoint = none) := by
  simp only [CreateParams.acceptable, Bool.and_eq_true, decide_eq_true_eq, List.all_eq_true, RawStage.acceptable_iff, and_assoc]
  exact and_congr_left fun _ => Nat.lt_succ_iff

section

variable {c : CreateParams}

theorem CreateParams.start?_now (h : c.kind = 0) : c.start? = some ⟨.now, 0, 0, 0, 0⟩ := by simp only [CreateParams.start?, h]

theorem CreateParams.start?_manual (h : c.kind = 1) : c.start? = some ⟨.manual, 0, 0, 0, 0⟩ := by simp only [CreateParams.start?, h]

theorem CreateParams.start?_delay (h : c.kind = 2) : c.start? =
    if field c.start 0 3 = 0 ∨ 86399 < field c.start 0 3 then none else some ⟨.delay, field c.start 0 3, 0, 0, 0⟩ := by
  simp only [CreateParams.start?, h]
  exact if_congr (by simp [Config.maxSeconds]) rfl rfl

theorem CreateParams.start?_clockTime (h : c.kind = 3) : c.start? =
    if 1439 < field c.start 0 2 then none else some ⟨.clockTime, 0, field c.start 0 2, 0, 0⟩ := by
  simp only [CreateParams.start?, h]

theorem CreateParams.start?_after (h : c.kind = 4) : c.start? =
    if field c.start 0 1 = 0 ∨ 48 < field c.start 0 1 ∨ 600 < field c.start 1 2 then none
    else some ⟨.after, 0, 0, field c.start 0 1, field c.start 1 2⟩ := by
  simp only [CreateParams.start?, h]
  exact if_congr (by simp [Config.slotCount, or_assoc]) rfl rfl

theorem CreateParams.start?_unknown (h : 4 < c.kind) : c.start? = none := by
  obtain ⟨n, hn⟩ : ∃ n, c.kind = n + 5 := ⟨c.kind - 5, by omega⟩
  simp only [CreateParams.start?, hn]

theorem CreateParams.kind_cases (c : CreateParams) : c.kind = 0 ∨ c.kind = 1 ∨ c.kind = 2 ∨ c.kind = 3 ∨ c.kind = 4 ∨ 4 < c.kind := by
  omega

/-- The start conditions that R65 refuses. -/
theorem CreateParams.start?_eq_none_iff : c.start? = none ↔ (c.kind = 2 ∧ (field c.start 0 3 = 0 ∨ 86399 < field c.start 0 3))
    ∨ (c.kind = 3 ∧ 1439 < field c.start 0 2)
    ∨ (c.kind = 4 ∧ (field c.start 0 1 = 0 ∨ 48 < field c.start 0 1 ∨ 600 < field c.start 1 2)) ∨ 4 < c.kind := by
  rcases c.kind_cases with h | h | h | h | h | h
  · simp [CreateParams.start?_now h, h]
  · simp [CreateParams.start?_manual h, h]
  · simp [CreateParams.start?_delay h, h, or_iff_not_imp_left]
  · simp [CreateParams.start?_clockTime h, h]
  · simp [CreateParams.start?_after h, h, or_iff_not_imp_left]
  · simp [CreateParams.start?_unknown h, h]

/-- The start condition that the fields of each kind give. -/
theorem CreateParams.start?_some {sc : StartCondition} (h : c.start? = some sc) :
    (c.kind = 0 → sc = ⟨.now, 0, 0, 0, 0⟩) ∧ (c.kind = 1 → sc = ⟨.manual, 0, 0, 0, 0⟩)
      ∧ (c.kind = 2 → sc = ⟨.delay, field c.start 0 3, 0, 0, 0⟩) ∧ (c.kind = 3 → sc = ⟨.clockTime, 0, field c.start 0 2, 0, 0⟩)
      ∧ (c.kind = 4 → sc = ⟨.after, 0, 0, field c.start 0 1, field c.start 1 2⟩) := by
  refine ⟨fun hk => ?_, fun hk => ?_, fun hk => ?_, fun hk => ?_, fun hk => ?_⟩
  · rw [CreateParams.start?_now hk] at h
    exact (Option.some.inj h).symm
  · rw [CreateParams.start?_manual hk] at h
    exact (Option.some.inj h).symm
  · rw [CreateParams.start?_delay hk] at h
    exact (Option.some.inj (Option.ite_none_left_eq_some.mp h).2).symm
  · rw [CreateParams.start?_clockTime hk] at h
    exact (Option.some.inj (Option.ite_none_left_eq_some.mp h).2).symm
  · rw [CreateParams.start?_after hk] at h
    exact (Option.some.inj (Option.ite_none_left_eq_some.mp h).2).symm

end

/-- The stage that a CREATE stores, its fields clamped (R41, R42, R151). -/
theorem RawStage.stored_eq (st : Nat) (g : RawStage) : g.stored st =
    { level := if st < 6 then min 9 g.level else if st = 7 then min 4 g.level else g.level
      full := g.full && decide (st = 7)
      setpoint := g.setpoint.map (fun v => 5 * ((max 30 (min 300 v) + 2) / 5))
      duration := min 863990 (10 * g.seconds)
      basis := if g.compensated = true then .compensated else .wall
      second := g.second } := by
  have hlevel : clampLevel st g.level = if st < 6 then min 9 g.level else if st = 7 then min 4 g.level else g.level :=
    if_congr (by simp [isGas]) rfl rfl
  have hduration : clampDuration g.seconds = min 863990 (10 * g.seconds) := by
    simp only [clampDuration, Config.maxSeconds]; omega
  rw [RawStage.stored, hlevel, hduration]
  rfl

/-- In a consistent table a chain is followed to its end, so a link adds one to the depth (R74). -/
theorem Table.Consistent.depth_eq {t : Table} (hc : t.Consistent) {k : Nat} {r : Record} (hr : t.rec? k = some r) :
    t.depth 5 k = if r.holdsLink = true then 1 + t.depth 5 r.start.linked else 0 := by
  have hstep : t.depth 5 k = if r.holdsLink then 1 + t.depth 4 r.start.linked else 0 := by simp only [Table.depth, hr]
  have hchain := hc.chain k r hr
  rw [hstep] at hchain ⊢
  split
  · next hl =>
    rw [if_pos hl] at hchain
    rw [Table.depth_succ_of_lt (n := 4) (by omega)]
  · rfl

/-! ### The checks of CREATE (R139, R150) -/

/-- The work of a CREATE whose parameters are accepted on a station that the port has FULL access to. -/
theorem createBody_eq {p : Port} {bytes : List Byte} {s : State} {c : CreateParams} {sc : StartCondition}
    (hparse : parseCreate bytes = some c) (hacc : c.acceptable = true) (hstart : c.start? = some sc) :
    createBody p bytes s = s.allowed p c.station true (s.createChecked p c sc) := by
  simp only [createBody, hparse, hacc, hstart, if_true]

theorem allowed_full {s : State} {p : Port} {st : Nat} (hfull : s.fullAccess p st = true) (hgas : p = .remote → isGas st = false)
    (limit : Bool) (work : Verdict) : s.allowed p st limit work = work := by
  unfold State.allowed
  rw [hfull]
  cases p with
  | panel => rfl
  | remote => simp [hgas rfl]

/-- The remote port is refused a station it has no FULL access to, and a gas station where the command is limited there. -/
theorem allowed_denied {s : State} {st : Nat} (h : s.settings.permission st ≠ 2 ∨ st < 6) (work : Verdict) :
    s.allowed .remote st true work = .error .denied := by
  unfold State.allowed
  by_cases hfull : s.fullAccess .remote st = true
  · have hgas : isGas st = true := by simpa [isGas] using h.resolve_left (fun hn => hn (by simpa [State.fullAccess] using hfull))
    simp [hfull, hgas]
  · simp [hfull]

/-- The state with a new record written into a slot. -/
def State.written (s : State) (p : Port) (c : CreateParams) (sc : StartCondition) (k : Nat) : State :=
  s.withTable (s.table.put k (some (newRecord p c (s.table.createdStart sc))))

section

variable {s : State} {p : Port} {c : CreateParams} {sc : StartCondition}

/-- The link that an AFTER names is in order: the port may see the record, and the chain stays short enough (R73, R74). -/
def State.linkOk (s : State) (p : Port) (sc : StartCondition) : Prop :=
  ∃ q, s.table.rec? sc.linked = some q ∧ portViews s.settings p q.station = true ∧ 1 + s.table.depth 5 sc.linked < 5

theorem State.linkOk.checks (h : sc.kind = .after → s.linkOk p sc) :
    s.linkMissing p sc = false ∧ s.table.chainTooDeep sc = false := by
  by_cases hk : sc.kind = .after
  · obtain ⟨q, hq, hview, hdeep⟩ := h hk
    exact ⟨by simp [State.linkMissing, hq, hview], by simp [Table.chainTooDeep]; omega⟩
  · exact ⟨by simp [State.linkMissing, hk], by simp [Table.chainTooDeep, hk]⟩

/-- Up to the search for a slot. -/
theorem createChecked_eq (hclock : sc.kind = .clockTime → s.time.valid = true) (hlink : sc.kind = .after → s.linkOk p sc) :
    s.createChecked p c sc = match s.table.free? with
      | none => .error .noSlot
      | some k =>
        if 6 ≤ s.table.stationCount c.station then .error .stationFull
        else
          let placed := if s.table.dueAtCreate sc = true then (s.written p c sc k).place k else s.written p c sc k
          .ok (placed, byteOf k :: placed.stateByteOf k) := by
  obtain ⟨hmissing, hdeep⟩ := State.linkOk.checks hlink
  have hvalid : (sc.kind == .clockTime && !s.time.valid) = false := by
    by_cases hk : sc.kind = .clockTime
    · simp [hclock hk]
    · simp [hk]
  rw [State.createChecked, hvalid, hmissing, hdeep]
  rfl

theorem createChecked_accepts {k : Nat} (hclock : sc.kind = .clockTime → s.time.valid = true)
    (hlink : sc.kind = .after → s.linkOk p sc) (hfree : s.table.free? = some k) (hcount : s.table.stationCount c.station < 6) :
    let placed := if s.table.dueAtCreate sc = true then (s.written p c sc k).place k else s.written p c sc k
    s.createChecked p c sc = .ok (placed, byteOf k :: placed.stateByteOf k) := by
  rw [createChecked_eq hclock hlink, hfree]
  exact if_neg (by omega)

end

/-! ### A CREATE that is not due, and the refusals -/

/-- The newly written record reads back, where the table has its slots. -/
theorem rec?_written {s : State} {k : Nat} (hslots : s.table.slots.length = 48) (hk : k ∈ allSlots) (p : Port) (c : CreateParams)
    (sc : StartCondition) : (s.written p c sc k).table.rec? k = some (newRecord p c (s.table.createdStart sc)) := by
  have := mem_allSlots.mp hk
  simp only [Config.slotCount] at this
  exact Table.rec?_put_same _ _ (by omega) (by omega)

/-- What the port may see, by the permission of the station. -/
theorem portViews_iff {u : SettingsUnit} {p : Port} {st : Nat} : portViews u p st = true ↔ (p = .remote → u.permission st ≠ 0) := by
  cases p with
  | panel => simp [portViews]
  | remote => simp [portViews, Nat.one_le_iff_ne_zero]

section

variable {s : State} {p : Port} {bytes : List Byte} {c : CreateParams} {sc : StartCondition}

/-- A CREATE refused by its parameters (R150). -/
theorem create_badParam (htakes : s.Takes p 0x10 bytes) (hparse : parseCreate bytes = some c)
    (h : c.acceptable = false ∨ c.start? = none) : exec .create s = .next (s.answered p bytes .badParam []) := by
  refine execute_refuses (body := createBody) htakes ?_
  simp only [createBody, hparse]
  cases hacc : c.acceptable with
  | false => rfl
  | true => simp [h.resolve_left (by simp [hacc])]

/-- A CREATE refused by its access (R145, R146). -/
theorem create_denied (htakes : s.Takes .remote 0x10 bytes) (hparse : parseCreate bytes = some c) (hacc : c.acceptable = true)
    (hstart : c.start? = some sc) (h : s.settings.permission c.station ≠ 2 ∨ c.station < 6) :
    exec .create s = .next (s.answered .remote bytes .denied []) :=
  execute_refuses (body := createBody) htakes (by
    rw [createBody_eq hparse hacc hstart]
    exact allowed_denied h _)

/-- A CREATE refused by the checks after those. -/
theorem create_refused {code : ResultCode} (htakes : s.Takes p 0x10 bytes) (hparse : parseCreate bytes = some c)
    (hacc : c.acceptable = true) (hstart : c.start? = some sc) (hfull : s.fullAccess p c.station = true)
    (hgas : p = .remote → isGas c.station = false) (h : (s.takeCommand p).createChecked p c sc = .error code) :
    exec .create s = .next (s.answered p bytes code []) :=
  execute_refuses (body := createBody) htakes (by
    rw [createBody_eq hparse hacc hstart, allowed_full (by simpa using hfull) hgas, h])

theorem takeCommand_linkOk (h : s.linkOk p sc) (p' : Port) : (s.takeCommand p').linkOk p sc := by
  simpa [State.linkOk] using h

end

/-- No slot is free where each holds a record. -/
theorem Table.free?_none {t : Table} (h : ∀ k, 1 ≤ k → k ≤ 48 → t.rec? k ≠ none) : t.free? = none := by
  refine List.find?_eq_none.mpr fun k hk => ?_
  obtain ⟨h1, h2⟩ := mem_allSlots.mp hk
  simpa using h k h1 h2

/-- A slot is free where one holds no record. -/
theorem Table.free?_isSome {t : Table} {k : Nat} (h1 : 1 ≤ k) (h2 : k ≤ 48) (h : t.rec? k = none) : ∃ j, t.free? = some j := by
  refine Option.isSome_iff_exists.mp (List.find?_isSome.mpr ⟨k, mem_allSlots.mpr ⟨h1, h2⟩, ?_⟩)
  simp [h]

/-- Settles O40: the record written, the parameters one by one, the depth of a chain, and the refusals in their order. -/
theorem createWritesTheRecord : Obligations.CreateWritesTheRecord := by
  refine ⟨?_, fun c => ⟨c.acceptable_iff, c.start?_eq_none_iff, fun sc h => CreateParams.start?_some h⟩, RawStage.stored_eq,
    fun t k r hc hr => hc.depth_eq hr, fun s p bytes c htakes hparse => ⟨create_badParam htakes hparse, fun sc hacc hstart => ⟨?_, ?_⟩⟩⟩
  · intro s p bytes c sc k hslots htakes hparse hacc hstart hfull hgas hclock hlink hfree hcount hdue
    obtain ⟨hk, hnone, hlower⟩ := Table.free?_some hfree
    have hk' := mem_allSlots.mp hk
    let u := s.takeCommand p
    have hbody : createBody p bytes u = .ok (u.written p c sc k, [byteOf k, 1#8]) := by
      rw [createBody_eq hparse hacc hstart, allowed_full (by simpa [u] using hfull) hgas,
        createChecked_accepts (by simpa [u] using hclock) (fun h => takeCommand_linkOk (hlink h) p) (by simpa [u] using hfree)
          (by simpa [u] using hcount), if_neg (by simp [hdue])]
      rw [State.stateByteOf, rec?_written (by simpa [u] using hslots) hk]
      rfl
    refine ⟨?_, hnone, hk'.1, hk'.2, fun j hj hjk => hlower j hj hjk⟩
    rw [show exec .create s = _ from execute_accepts htakes hbody (takeCommand_ann s p)]
    cases p <;> rfl
  · rintro rfl h
    exact create_denied htakes hparse hacc hstart h
  · intro haccess
    have hfull : s.fullAccess p c.station = true := by
      cases p with
      | panel => rfl
      | remote => simpa [State.fullAccess] using (haccess rfl).1
    have hgas : p = .remote → isGas c.station = false := fun hp => by simpa [isGas] using (haccess hp).2
    have hrefused := fun code => create_refused (code := code) htakes hparse hacc hstart hfull hgas
    refine ⟨fun hk hvalid => hrefused _ ?_, fun hk hmissing => hrefused _ ?_, fun q hk hq hview hdeep => hrefused _ ?_,
      fun hclock hlink => ⟨fun hall => hrefused _ ?_, fun k h1 h2 hnone hcount => hrefused _ ?_⟩⟩
    · simp [State.createChecked, hk, hvalid]
    · have hlost : (s.takeCommand p).linkMissing p sc = true := by
        rcases hmissing with h | ⟨rfl, q, hq, hperm⟩
        · simp [State.linkMissing, hk, h]
        · simp [State.linkMissing, hk, hq, portViews, hperm]
      simp [State.createChecked, hk, hlost]
    · have hseen : (s.takeCommand p).linkMissing p sc = false := by
        simp [State.linkMissing, hq, portViews_iff.mpr hview]
      have hlong : s.table.chainTooDeep sc = true := by simp [Table.chainTooDeep, hk]; omega
      simp [State.createChecked, hk, hseen, hlong]
    all_goals
      have hlink' : sc.kind = .after → (s.takeCommand p).linkOk p sc := fun h => by
        obtain ⟨q, hq, hview, hdeep⟩ := hlink h
        exact takeCommand_linkOk ⟨q, hq, portViews_iff.mpr hview, by omega⟩ p
      rw [createChecked_eq (by simpa using hclock) hlink', takeCommand_table]
    · rw [Table.free?_none hall]
    · obtain ⟨j, hj⟩ := Table.free?_isSome h1 h2 hnone
      rw [hj]
      exact if_pos hcount

/-! ### A CREATE that is due, and START (R20, R66, R73, R79) -/

/-- A placement, read by a state whose stations and other records stand as before it. -/
theorem State.Placed.of_same {s w t t' : State} {k : Nat} {r : Record} (h : w.Placed t k r)
    (hhead : ∀ f, w.table.head f = s.table.head f) (hqueue : ∀ f, w.table.queue f = s.table.queue f)
    (hrec : ∀ j, j ≠ k → w.table.rec? j = s.table.rec? j) (hwb : w.burners = s.burners) (hws : w.settings = s.settings)
    (ht : t'.table = t.table) (hb : t'.burners = t.burners) : s.Placed t' k r := by
  have hburner := State.burner_congr hb
  have hwburner := State.burner_congr hwb
  refine ⟨fun h0 => ?_, fun h0 => ?_, fun j hj => ?_, fun f hf => ?_⟩
  · have := h.as_head ((hhead _).trans h0)
    simpa only [State.FirstLevel, ht, hburner, hqueue, hws] using this
  · have := h.as_queued (by rwa [hhead])
    simpa only [ht, hb, hqueue, hhead, hwb] using this
  · rw [ht, h.other_records j hj, hrec j hj]
  · have := h.other_stations f hf
    simpa only [ht, hburner, hhead, hqueue, hwburner] using this

/-- A new record is written beside the heads, so the burners still follow them. -/
theorem written_levels {s : State} (hc : s.table.Consistent) (hl : s.LevelsFollow) {p : Port} {c : CreateParams} {k : Nat}
    (hst : c.station < 8) (hk : k ∈ allSlots) (hnone : s.table.rec? k = none) (sc : StartCondition) :
    (s.written p c sc k).LevelsFollow := by
  refine hl.update rfl (Table.put_new_update hc.shaped hst hk _) fun f => (hc.unnamed ?_ hnone f).1
  have := mem_allSlots.mp hk
  omega

/-- A CREATE whose record is due places it at its own event. -/
theorem create_places {s : State} {p : Port} {bytes : List Byte} {c : CreateParams} {sc : StartCondition} {k : Nat}
    (hc : s.table.Consistent) (hl : s.LevelsFollow) (htakes : s.Takes p 0x10 bytes) (hparse : parseCreate bytes = some c)
    (hacc : c.acceptable = true) (hstart : c.start? = some sc) (hfull : s.fullAccess p c.station = true)
    (hgas : p = .remote → isGas c.station = false) (hclock : sc.kind = .clockTime → s.time.valid = true)
    (hlink : sc.kind = .after → s.linkOk p sc) (hfree : s.table.free? = some k) (hcount : s.table.stationCount c.station < 6)
    (hdue : s.table.dueAtCreate sc = true) :
    ∃ t, exec .create s = .next t ∧ s.Placed t k (newRecord p c (s.table.createdStart sc))
      ∧ t = { s.answered p bytes .ok (byteOf k :: t.stateByteOf k) with table := t.table, burners := t.burners } := by
  let u := s.takeCommand p
  let r := newRecord p c (s.table.createdStart sc)
  have htable : u.table = s.table := takeCommand_table s p
  have hcu : u.table.Consistent := by rwa [htable]
  obtain ⟨hk, hnone, -⟩ := Table.free?_some hfree
  have hst : c.station < 8 := Nat.lt_succ_of_le (c.acceptable_iff.mp hacc).1
  have hwritten : (u.written p c sc k).table = s.table.put k (some r) := by simp only [State.written, htable]; rfl
  have hrec : (u.written p c sc k).table.rec? k = some r := by
    have := rec?_written hcu.slots hk p c sc
    rwa [htable] at this
  have hshaped : (u.written p c sc k).table.Shaped := (Table.put_new_update hcu.shaped hst hk _).shaped hcu.shaped
  have hplaced := place_placed hshaped (written_levels hcu (takeCommand_levelsFollow hl p) hst hk (by rwa [htable]) sc) hst hrec
  let x := (u.written p c sc k).place k
  have hbody : createBody p bytes u = .ok (x, byteOf k :: x.stateByteOf k) := by
    rw [createBody_eq hparse hacc hstart, allowed_full (by simpa [u] using hfull) hgas,
      createChecked_accepts (by simpa [u] using hclock) (fun h => takeCommand_linkOk (hlink h) p) (by rwa [htable])
        (by rwa [htable]), if_pos (by rwa [htable])]
  obtain ⟨tb, b, hx⟩ := place_onTable (u.written p c sc k) k
  have hexec : exec .create s = _ := execute_accepts htakes hbody (by
    show ((u.written p c sc k).place k).ann = _
    rw [hx]
    exact takeCommand_ann s p)
  refine ⟨_, hexec, hplaced.of_same (fun f => by rw [hwritten, Table.head_put]) (fun f => by rw [hwritten, Table.queue_put])
    (fun j hj => by rw [hwritten, Table.rec?_put_other _ _ hj]) (takeCommand_burners s p) (takeCommand_settings s p)
    (reply_table ..) (reply_burners ..), ?_⟩
  simp only [State.stateByteOf, reply_table]
  show x.reply _ _ = _
  simp only [x, hx]
  cases p <;> rfl

/-- The work of an accepted START. -/
theorem startBody_accepts {s : State} {p : Port} {bytes : List Byte} {r : Record} (h : s.Reaches p bytes r)
    (hgas : p = .remote → isGas r.station = false) (harmed : r.state = .armed) :
    startBody p bytes (s.takeCommand p)
      = .ok ((s.takeCommand p).place (field bytes 2 1), ((s.takeCommand p).place (field bytes 2 1)).stateByteOf (field bytes 2 1)) := by
  unfold startBody
  rw [withRecord_reaches h, allowed_reaches h true fun hp hg => by simp [hgas hp] at hg]
  exact if_pos (by simp [harmed])

/-- Settles O41: the record of a due CREATE, or of a START, placed at the event itself. -/
theorem createNowAndStartPlaceTheRecord : Obligations.CreateNowAndStartPlaceTheRecord := by
  refine ⟨fun s p bytes c k hc hl htakes hparse hacc hkind hfull hgas hfree hcount => ?_,
    fun s p bytes c q k hc hl htakes hparse hacc hkind hoffset hfull hgas hq hended hview hfree hcount => ?_,
    fun s p bytes r hc hl htakes hreach hgas harmed => ?_⟩
  · obtain ⟨t, hexec, hplaced, ht⟩ := create_places hc hl htakes hparse hacc (CreateParams.start?_now hkind) hfull hgas (by simp)
      (by simp) hfree hcount rfl
    exact ⟨t, _, hexec, rfl, rfl, rfl, rfl, rfl, hplaced, ht⟩
  · let sc : StartCondition := ⟨.after, 0, 0, field c.start 0 1, field c.start 1 2⟩
    have hlinked := mem_allSlots.mp (Table.mem_allSlots_of_rec? hc.slots hq)
    simp only [Config.slotCount] at hlinked
    have hstart : c.start? = some sc := (CreateParams.start?_after hkind).trans (if_neg (by omega))
    have hreleased : s.table.linkedEnded sc = true := by simp [Table.linkedEnded, sc, hq, hended]
    have hshallow : s.table.depth 5 sc.linked = 0 := by
      rw [hc.depth_eq hq, if_neg (by simp [Record.holdsLink, hended])]
    obtain ⟨t, hexec, hplaced, ht⟩ := create_places hc hl htakes hparse hacc hstart hfull hgas (by simp [sc])
      (fun _ => ⟨q, hq, hview, by omega⟩) hfree hcount (by
        rw [Table.dueAtCreate, hreleased, show sc.offset = 0 from hoffset]; rfl)
    refine ⟨t, _, hexec, rfl, rfl, rfl, rfl, ?_, hplaced, ht⟩
    show (s.table.createdStart sc).kind = .after
    rw [Table.createdStart, if_pos hreleased]
  · let u := s.takeCommand p
    have hrec : u.table.rec? (field bytes 2 1) = some r := by simpa [u] using hreach.record
    have hcu : u.table.Consistent := by simpa [u] using hc
    have hplaced := place_placed hcu.shaped (takeCommand_levelsFollow hl p) (hcu.sound _ _ hrec).station hrec
    obtain ⟨tb, b, hx⟩ := place_onTable u (field bytes 2 1)
    have hexec : exec .start s = _ := execute_accepts htakes (startBody_accepts hreach hgas harmed) (by
      rw [hx]; exact takeCommand_ann s p)
    refine ⟨_, hexec, hplaced.of_same (fun f => by rw [takeCommand_table]) (fun f => by rw [takeCommand_table])
      (fun j _ => by rw [takeCommand_table]) (takeCommand_burners s p) (takeCommand_settings s p) (reply_table ..) (reply_burners ..),
      ?_⟩
    simp only [State.stateByteOf, reply_table]
    rw [hx]
    cases p <;> rfl

end Sys2Proof.Machine
end


section
/-! PROOFS. The end of a record at a slice boundary (R27, R45, R52, R75, R107): O27. -/

namespace Sys2Proof.Machine

/-! ### The record that ends -/

theorem Record.finished_eq (r : Record) : r.finished = { r with
    state := .ended, remaining := 0, keep := (r.stageAt? r.stage).elim false Stage.second, alerts := r.alerts ||| 2#6 } := rfl

theorem Record.finished_hasAlert (r : Record) : r.finished.hasAlert .recordEnd = true := by
  simp [Record.finished_eq, Record.hasAlert, AlertKind.num]

theorem Record.finished_waitsOn (r : Record) (k : Nat) : r.finished.waitsOn k = false := rfl

/-- An ENDED record is past its reminder. -/
theorem Record.remind_finished (r : Record) : r.finished.remind = r.finished := rfl

/-- A record ENDED with KEEP gives the level it gave in its last stage, if its flame has not gone out (R27). -/
theorem Record.givenLevel_finished {r : Record} (hrun : r.state = .running) (hlast : r.stage = r.stages.length) (hk : r.keeps = true) :
    r.finished.givenLevel = if r.flameOut = true then 0 else r.givenLevel := by
  have hlit : r.lit = true := Record.lit_iff.mpr (.inl hrun)
  have hshown : r.finished.shownStage? = r.shownStage? := by
    simp [Record.shownStage?, Record.shownIndex, Record.finished_eq, hrun, hlast, Record.stageAt?]
  have hlit' : r.finished.lit = !r.flameOut := by
    have : r.finished.keep = true := hk
    simp [Record.lit, this, show r.finished.state = .ended from rfl]
    rfl
  rw [Record.givenLevel, Record.givenLevel, hlit, hlit', hshown]
  cases r.flameOut <;> rfl

section

variable {s : State} {k : Nat} {r : Record}

theorem finished_frame (s : State) (k : Nat) (r : Record) :
    s.finished k r = { s with table := (s.finished k r).table, burners := (s.finished k r).burners } := by
  unfold State.finished
  split
  · rw [follow_eq]; rfl
  · rw [promote_eq]; rfl

/-- With KEEP no grace starts: the head gives no level that it did not give before. -/
theorem finished_kept (hc : s.table.Consistent) (hl : s.LevelsFollow) (hr : s.table.rec? k = some r) (hrun : r.state = .running)
    (hlast : r.stage = r.stages.length) (hk : r.keeps = true) : (s.finished k r).table = s.table.modify k Record.finished := by
  have hhead : s.table.head r.station = k := hc.head_of_isHead hr (by simp [Record.isHead, hrun])
  rw [State.finished, if_pos hk]
  refine follow_table_steady fun h => ?_
  obtain ⟨hg, hlevel, hdark⟩ := (lights_modify_iff hl k _ _).mp h
  have hheadRec : s.table.headRec? r.station = some r := by rw [Table.headRec?, hhead, hr]
  have hat := Table.levelOf_modify_head hheadRec Record.finished
  rw [hhead] at hat
  rw [hat, Record.givenLevel_finished hrun hlast hk] at hlevel
  rw [hl.level_of_head hr hhead hg] at hdark
  rw [hdark, ite_self] at hlevel
  exact hlevel rfl

/-- With OFF the first queued record takes the station. -/
theorem finished_off (hc : s.table.Consistent) (hl : s.LevelsFollow) (hr : s.table.rec? k = some r) (hrun : r.state = .running)
    (hk : r.keeps = false) : (s.modify k Record.finished).Promoted (s.finished k r) r.station := by
  have hn := hc.nearly noSlot
  have hst := hn.station_lt hr
  have hhead : s.table.head r.station = k := hc.head_of_isHead hr (by simp [Record.isHead, hrun])
  have hshaped := (Table.modify_update hc.shaped hst hr Record.finished).shaped hc.shaped
  rw [State.finished, if_neg (by simp [hk])]
  refine promote_promoted (s := s.modify k Record.finished) hshaped hl.six hst fun n hm => ?_
  rw [State.modify_table, Table.queue_modify] at hm
  obtain ⟨q, hq, hqst, -, hne⟩ := hn.of_mem_queue hst hm
  rw [State.modify_table, Table.rec?_modify, if_neg fun h => hne (hhead.trans h.symm)]
  exact ⟨q, hq, hqst, hl.fresh hne⟩

/-- The slot of the record that ends is not queued. -/
theorem Table.Consistent.not_mem_queue_running {t : Table} (hc : t.Consistent) (hr : t.rec? k = some r) (hrun : r.state = .running) :
    k ∉ t.queue r.station := fun hm => by simp [(hc.queue_iff k r hr).mpr hm] at hrun

theorem finished_rec?_self (hc : s.table.Consistent) (hl : s.LevelsFollow) (hr : s.table.rec? k = some r) (hrun : r.state = .running)
    (hlast : r.stage = r.stages.length) : (s.finished k r).table.rec? k = some r.finished := by
  have hmodified : (s.table.modify k Record.finished).rec? k = some r.finished := by
    rw [Table.rec?_modify, if_pos rfl, hr]; rfl
  cases hk : r.keeps with
  | true => rw [finished_kept hc hl hr hrun hlast hk, hmodified]
  | false =>
    rw [(finished_off hc hl hr hrun hk).rec?_other k fun h => ?_, State.modify_table, hmodified]
    rw [State.modify_table, Table.queue_modify] at h
    exact hc.not_mem_queue_running hr hrun (List.mem_of_mem_head? h)

/-- Every other record stays as it is, but for one that is promoted. -/
theorem finished_rec?_other (hc : s.table.Consistent) (hl : s.LevelsFollow) (hr : s.table.rec? k = some r) (hrun : r.state = .running)
    (hlast : r.stage = r.stages.length) {j : Nat} (hj : j ≠ k) (h : r.keeps = true ∨ (s.table.queue r.station).head? ≠ some j) :
    (s.finished k r).table.rec? j = s.table.rec? j := by
  cases hk : r.keeps with
  | true => rw [finished_kept hc hl hr hrun hlast hk, Table.rec?_modify, if_neg hj]
  | false =>
    rw [(finished_off hc hl hr hrun hk).rec?_other j ?_, State.modify_table, Table.rec?_modify, if_neg hj]
    rw [State.modify_table, Table.queue_modify]
    exact h.resolve_left (by simp [hk])

/-- The end of a record makes no record wait on its slot. -/
theorem finished_no_waiters (hc : s.table.Consistent) (hl : s.LevelsFollow) (hr : s.table.rec? k = some r) (hrun : r.state = .running)
    (hlast : r.stage = r.stages.length) (hno : ∀ j q, s.table.rec? j = some q → q.waitsOn k = false) {j : Nat} {q : Record}
    (hq : (s.finished k r).table.rec? j = some q) : q.waitsOn k = false := by
  have hcf := (keeps_finished hr hrun (by simp [Record.hasNextStage, hlast])).table hc
  by_cases hj : j = k
  · rw [hj, finished_rec?_self hc hl hr hrun hlast] at hq
    obtain rfl := Option.some.inj hq
    exact r.finished_waitsOn k
  · by_cases h : r.keeps = true ∨ (s.table.queue r.station).head? ≠ some j
    · rw [finished_rec?_other hc hl hr hrun hlast hj h] at hq
      exact hno j q hq
    · obtain ⟨hoff, hfirst⟩ := not_or.mp h
      have hk : r.keeps = false := by simpa using hoff
      have hhead : (s.finished k r).table.head r.station = j := by
        rw [(finished_off hc hl hr hrun hk).head, State.modify_table, Table.queue_modify, List.headD_eq_head?_getD,
          not_not.mp hfirst]
        rfl
      have hst : r.station < 8 := (hc.sound k r hr).station
      obtain ⟨p, hp, hpst⟩ := hcf.of_head (st := r.station) (by
        rw [hhead]; exact Nat.pos_iff_ne_zero.mp (Table.rec?_some_pos hq).1)
      rw [hhead, hq] at hp
      obtain rfl := Option.some.inj hp
      have hishead : q.isHead = true := (hcf.head_iff j q hq).mpr (by rw [hpst, hhead])
      exact Bool.eq_false_iff.mpr fun hw => by simp [Record.isHead, Record.waitsOn_armed hw] at hishead

/-- Where no record waits on it, the end of a record is the change of its station. -/
theorem finished_recordEnded (hc : s.table.Consistent) (hl : s.LevelsFollow) (hr : s.table.rec? k = some r) (hrun : r.state = .running)
    (hlast : r.stage = r.stages.length) : s.RecordEnded (s.finished k r) k r := by
  have hn := hc.nearly noSlot
  have hst := hn.station_lt hr
  have hhead : s.table.head r.station = k := hc.head_of_isHead hr (by simp [Record.isHead, hrun])
  have hqueue : (s.modify k Record.finished).table.queue r.station = s.table.queue r.station := Table.queue_modify ..
  refine ⟨⟨r.finished, finished_rec?_self hc hl hr hrun hlast, r.finished_hasAlert, rfl⟩, fun hk => ⟨?_, ?_, fun hg g hgs hf => ?_⟩,
    fun hk hempty => ?_, fun hk n rest hcons => ?_, fun j hj h => finished_rec?_other hc hl hr hrun hlast hj h, fun f hf => ?_⟩
  · rw [finished_kept hc hl hr hrun hlast hk, Table.modify_heads]
  · rw [finished_kept hc hl hr hrun hlast hk, Table.modify_queues]
  · have hb : r.station < s.burners.length := by
      rw [hl.six]; simpa [isGas] using hg
    have hlevel := level_modify_follow_head hr hhead hg hb Record.finished
    rw [Record.givenLevel_finished hrun hlast hk, if_neg (by simp [hf]),
      Record.givenLevel_lit (Record.lit_iff.mpr (.inl hrun)) (by rw [Record.shownStage?, Record.shownIndex, hrun, hgs])] at hlevel
    rw [State.finished, if_pos (show r.keeps = true from hk), hlevel]
  · have hp := finished_off hc hl hr hrun hk
    refine ⟨by rw [hp.head, hqueue, hempty]; rfl, by rw [hp.queue, hqueue, hempty]; rfl, hp.dark (hqueue.trans hempty)⟩
  · have hp := finished_off hc hl hr hrun hk
    obtain ⟨q, hq, -, -, hne⟩ := hn.of_mem_queue hst (hcons ▸ List.mem_cons_self)
    refine ⟨by rw [hp.head, hqueue, hcons]; rfl, by rw [hp.queue, hqueue, hcons]; rfl, q, hq, hp.entered n rest q (hqueue.trans hcons) ?_⟩
    rw [State.modify_table, Table.rec?_modify, if_neg fun h => hne (hhead.trans h.symm), hq]
  · cases hk : r.keeps with
    | true =>
      rw [finished_kept hc hl hr hrun hlast hk, Table.head_modify, Table.queue_modify]
      refine ⟨rfl, rfl, ?_⟩
      rw [State.finished, if_pos hk, follow_burner_other _ hf]
      rfl
    | false => simpa using (finished_off hc hl hr hrun hk).others f hf

end

/-! ### The end of a record as the engine takes it (R75, R107) -/

theorem release_frame (s : State) (k : Nat) :
    s.release k = { s with table := (s.release k).table, burners := (s.release k).burners } := by
  rw [release_eq, placeAll_eq, unlink_eq]
  rfl

theorem endRecord_frame {s : State} {k : Nat} {r : Record} (hr : s.table.rec? k = some r) (j : Nat) :
    s.endRecord k r j = { s with
      table := (s.endRecord k r j).table, burners := (s.endRecord k r j).burners
      app := s.app.drop (s.leaving (s.endRecord k r j) r.station) j } := by
  rw [endRecord_eq hr, release_frame, finished_frame]
  rfl

/-- The ended record itself takes no part in the release. -/
theorem endRecord_rec?_self {s : State} (hc : s.table.Consistent) (hl : s.LevelsFollow) {k : Nat} {r : Record}
    (hr : s.table.rec? k = some r) (hrun : r.state = .running) (hlast : r.stage = r.stages.length) (j : Nat) :
    (s.endRecord k r j).table.rec? k = some r.finished := by
  have hcf := (keeps_finished hr hrun (by simp [Record.hasNextStage, hlast])).table hc
  have hself := finished_rec?_self hc hl hr hrun hlast
  rw [endRecord_eq hr]
  refine (release_rec?_other (hcf.nearly noSlot) fun q hq => ?_).trans hself
  obtain rfl := Option.some.inj (hself.symm.trans hq)
  exact r.finished_waitsOn k

/-- The end of a record is read the same by a state in which the record differed by its countdown alone. -/
theorem State.RecordEnded.of_counted {s w t t' : State} {k : Nat} {r p : Record} (h : w.RecordEnded t k p) (hcourse : r.SameCourse p)
    (hw : w.table = s.table.put k (some p)) (hb : w.burners = s.burners) (hset : w.settings = s.settings)
    (hk : k ∉ s.table.queue r.station) (ht : t'.table = t.table) (htb : t'.burners = t.burners) : s.RecordEnded t' k r := by
  have hother : ∀ j, j ≠ k → w.table.rec? j = s.table.rec? j := fun j hj => by rw [hw, Table.rec?_put_other _ _ hj]
  have hhead : ∀ f, w.table.head f = s.table.head f := fun f => by rw [hw, Table.head_put]
  have hqueue : ∀ f, w.table.queue f = s.table.queue f := fun f => by rw [hw, Table.queue_put]
  have hheads : w.table.heads = s.table.heads := by rw [hw, Table.put_heads]
  have hqueues : w.table.queues = s.table.queues := by rw [hw, Table.put_queues]
  have hburner := State.burner_congr htb
  have hwburner := State.burner_congr hb
  obtain ⟨x1, x2, x3, x4, x5, x6, rfl⟩ : ∃ x1 x2 x3 x4 x5 x6, p = { r with
      remaining := x1, acc := x2, starve := x3, starvedRaised := x4, standing := x5, alerts := x6 } :=
    ⟨_, _, _, _, _, _, hcourse⟩
  obtain ⟨q, hq, halert, heq⟩ := h.record
  refine ⟨⟨q, by rw [ht, hq], halert, heq⟩, fun hkeep => ?_, fun hoff hempty => ?_, fun hoff n rest hcons => ?_, fun j hj hcase => ?_,
    fun f hf => ?_⟩
  · obtain ⟨h1, h2, h3⟩ := h.kept hkeep
    exact ⟨by rw [ht, h1, hheads], by rw [ht, h2, hqueues], fun hg g hgs hf => by rw [hburner]; exact h3 hg g hgs hf⟩
  · have := h.off_alone hoff ((hqueue _).trans hempty)
    simpa only [ht, hburner] using this
  · obtain ⟨h1, h2, q', hq', hread, hlevel⟩ := h.off_queued hoff n rest ((hqueue _).trans hcons)
    have hne : n ≠ k := fun he => hk (by rw [hcons, he]; exact List.mem_cons_self)
    refine ⟨by rw [ht, h1], by rw [ht, h2], q', by rw [← hother n hne, hq'], by rw [ht, hread, hset], ?_⟩
    simpa only [State.FirstLevel, hburner] using hlevel
  · rw [ht, h.other_records j hj (hcase.imp_right fun h => by rwa [hqueue]), hother j hj]
  · have := h.other_stations f hf
    simpa only [ht, hburner, hhead, hqueue, hwburner] using this

/-- The blocks in which the end of a record is read. -/
theorem State.RecordEnded.congr {s s' t t' : State} {k : Nat} {r : Record} (h : s.RecordEnded t k r) (hst : s'.table = s.table)
    (hsb : s'.burners = s.burners) (hss : s'.settings = s.settings) (htt : t'.table = t.table) (htb : t'.burners = t.burners) :
    s'.RecordEnded t' k r := by
  have hs := State.burner_congr hsb
  have ht := State.burner_congr htb
  refine ⟨?_, ?_, ?_, ?_, ?_, ?_⟩
  · simpa only [htt] using h.record
  · simpa only [hst, htt, ht] using h.kept
  · simpa only [hst, htt, ht] using h.off_alone
  · simpa only [State.FirstLevel, hst, hss, htt, ht] using h.off_queued
  · simpa only [hst, htt] using h.other_records
  · simpa only [hst, htt, hs, ht] using h.other_stations

/-- A WALL stage loses 1 ds at every boundary (R45). -/
theorem counted_wall {s : State} {r : Record} {g : Stage} (hg : r.stageAt? r.stage = some g) (hw : g.basis = .wall) :
    (s.counted r).2 = true ∧ (s.counted r).1.remaining = r.remaining - 1 := by
  have hrise : r.riseStanding.stageAt? r.riseStanding.stage = some g := by rw [Record.sameCourse_riseStanding r]; exact hg
  have hloses : ∀ (q : Record) (period : Bool) (f : Figures), q.stageAt? q.stage = some g → q.remaining = r.remaining →
      (q.loseTime period f).2 = true ∧ (q.loseTime period f).1.remaining = r.remaining - 1 := fun q period f hq hrem => by
    simp only [Record.loseTime, hq, Option.map_some, hw, hrem, and_self]
  unfold State.counted
  dsimp only
  split
  · obtain ⟨n, b, a, h⟩ := r.riseStanding.countStarvation_cases (s.settings.value Config.starvationId) (s.app.figures r.station)
    rw [h]
    exact hloses _ _ _ hrise r.riseStanding_remaining
  · exact hloses _ _ _ hrise r.riseStanding_remaining

/-- The end of a record that a countdown has brought to its last decisecond, read by the state before the countdown. -/
structure State.EndsLast (s t : State) (k : Nat) (r : Record) (j : Nat) : Prop where
  ended : ∃ q, t.table.rec? k = some q ∧ q.state = .ended ∧ q.remaining = 0 ∧ q.hasAlert .recordEnd = true ∧ q.remind = q
  app : t.app = s.app.drop (s.leaving t r.station) j
  ann : t.ann = s.ann
  todo : t.todo = s.todo
  alone : (∀ i q, s.table.rec? i = some q → q.waitsOn k = false) → s.RecordEnded t k r

theorem put_elements {t : Table} {k : Nat} {r p : Record} (hr : t.rec? k = some r) (hp : r.SameCourse p) (st : Nat) :
    (t.put k (some p)).elements st = t.elements st := by
  rw [← Table.modify_eq_put hr (fun _ => p)]
  refine (Table.modify_mapped t k _).elements fun q hq => ?_
  split
  · next hk =>
    rw [Table.headRec?, hk, hr] at hq
    rw [← Option.some.inj hq, hp]
    exact ⟨rfl, rfl⟩
  · exact ⟨rfl, rfl⟩

theorem endRecord_endsLast {s w : State} {k : Nat} {r p : Record} (hs : s.table.Consistent) (hr : s.table.rec? k = some r)
    (hrun : r.state = .running) (hlast : r.stage = r.stages.length) (hcourse : r.SameCourse p)
    (hw : w = s.withTable (s.table.put k (some p))) (hc : w.table.Consistent) (hl : w.LevelsFollow)
    (hp : w.table.rec? k = some p) (j : Nat) : s.EndsLast (w.endRecord k p j) k r j := by
  have hprun : p.state = .running := by rw [hcourse]; exact hrun
  have hplast : p.stage = p.stages.length := by rw [hcourse]; exact hlast
  have hst : p.station = r.station := by rw [hcourse]
  have hframe := endRecord_frame hp j
  have hwtable : w.table = s.table.put k (some p) := by rw [hw]; rfl
  have hleaving : w.leaving (w.endRecord k p j) p.station = s.leaving (w.endRecord k p j) r.station := by
    rw [State.leaving, State.leaving, hst, hwtable, put_elements hr hcourse]
  refine ⟨⟨p.finished, endRecord_rec?_self hc hl hp hprun hplast j, rfl, rfl, p.finished_hasAlert, p.remind_finished⟩, ?_, ?_, ?_,
    fun hno => ?_⟩
  · rw [← hleaving]
    conv_lhs => rw [hframe]
    rw [hw]
    rfl
  · rw [hframe, hw]; rfl
  · rw [hframe, hw]; rfl
  · have hnone : ∀ i q, w.table.rec? i = some q → q.waitsOn k = false := fun i q hq => by
      by_cases hi : i = k
      · rw [hi, hp] at hq
        rw [← Option.some.inj hq]
        simp [Record.waitsOn, Record.holdsLink, hprun]
      · rw [hwtable, Table.rec?_put_other _ _ hi] at hq
        exact hno i q hq
    refine (finished_recordEnded hc hl hp hprun hplast).of_counted hcourse hwtable (by rw [hw]; rfl) (by rw [hw]; rfl)
      (hs.not_mem_queue_running hr hrun) ?_ ?_
    all_goals
      rw [endRecord_eq hp, release_none fun i q hq => finished_no_waiters hc hl hp hprun hplast hnone hq]
      rfl

/-! ### The share of the boundary -/

/-- What leaves the work of a boundary to later adds no countdown to it. -/
theorem leaveStarted_awaits_count {s t : State} {k : Nat} (h : (s.leaveStarted t).awaits (.count k) = true) :
    t.awaits (.count k) = true := by
  simp only [State.leaveStarted, State.awaits, State.withTodo_todo, List.contains_iff_mem, List.mem_append, List.mem_filter] at h ⊢
  refine h.elim And.left fun h => ?_
  split at h
  · obtain ⟨j, -, hj⟩ := List.mem_map.mp h
    exact absurd hj (by simp)
  · exact absurd h List.not_mem_nil

/-- A change that leaves the record of the slot as it is. -/
theorem State.modify_self {s : State} {k : Nat} {r : Record} (hr : s.table.rec? k = some r) {f : Record → Record} (hf : f r = r) :
    s.modify k f = s := by
  rw [State.modify, Table.modify_eq_put hr, hf, Table.put_self hr]
  rfl

theorem pending1_rec? {s : State} {k : Nat} {r : Record} (hr : s.table.rec? k = some r) (q : Record) :
    (s.pending1 k q).table.rec? k = some { q with remaining := 1 } := by
  rw [State.pending1, State.rec?_modify, if_pos rfl, hr]; rfl

/-- A record counted down, with time left, stands as it stood. -/
theorem keeps_pending1 {s : State} {k : Nat} {r q : Record} (hr : s.table.rec? k = some r) (hq : r.SameCourse q) :
    s.Keeps (s.pending1 k q) := by
  have hcourse : r.SameCourse { q with remaining := 1 } := hq.trans rfl
  exact keeps_modify_at hr (hcourse.alike (Nat.le_refl 1) (Nat.le_max_left 1 _)) hcourse.givenLevel

/-- The countdown that ends the last stage ends the record; its reminder has nothing more to say. -/
theorem countRecord_ends {s : State} {k : Nat} {r : Record} (hc : s.table.Consistent) (hl : s.LevelsFollow)
    (hr : s.table.rec? k = some r) (hrun : r.state = .running) (hlast : r.stage = r.stages.length)
    (htaken : (s.counted r).2 = true) (h0 : (s.counted r).1.remaining = 0) :
    ∃ x before, s.countRecord k = settleFrom s (State.leaveStarted before x) ∧ s.EndsLast x k r s.boundarySlice := by
  generalize hq : (s.counted r).1 = q at h0
  have hcourse : r.SameCourse q := by
    obtain ⟨h, -, -⟩ := counted_cases s r
    rwa [hq] at h
  let p : Record := { q with remaining := 1 }
  have hpcourse : r.SameCourse p := hcourse.trans rfl
  have hpend : s.pending1 k q = s.withTable (s.table.put k (some p)) :=
    congrArg s.withTable (Table.modify_eq_put hr _)
  have hkeep := keeps_pending1 hr hcourse
  have hp : (s.pending1 k q).table.rec? k = some p := pending1_rec? hr q
  have hends := endRecord_endsLast hc hr hrun hlast hpcourse hpend (hkeep.table hc) (hkeep.levels hc hl) hp s.boundarySlice
  have hend : (s.withTable (s.table.put k (some q))).endStage k s.boundarySlice
      = (s.pending1 k q).endRecord k p s.boundarySlice := by
    have hnext : p.hasNextStage = false := by
      rw [Record.hasNextStage, hpcourse]; simp [hlast]
    rw [endStage_runs_out hr h0]
    simp only [State.endStage, hp, hnext, Bool.false_eq_true, if_false]
  generalize (s.pending1 k q).endRecord k p s.boundarySlice = x at hends hend
  refine ⟨x, s.withTable (s.table.put k (some q)), ?_, hends⟩
  unfold State.countRecord
  simp only [hr, hrun, htaken, hq, h0, beq_self_eq_true, Bool.true_and, if_true, hend]
  obtain ⟨e, he, -, -, -, hremind⟩ := hends.ended
  exact congrArg (settleFrom s) (State.modify_self (s := State.leaveStarted _ x) (r := e) he hremind)

/-- Taking a share off the list is no event of the Alert Unit. -/
theorem State.AnnTaken.of_todo {s t : State} {w : List Work} (h : (s.withTodo w).AnnTaken t) : s.AnnTaken t := h

/-- Settles O27: the countdown ends the record, its station changes, its dependents are released, and the drop follows. -/
theorem wallRecordEnds : Obligations.WallRecordEnds := by
  intro s k r g hc hl hcount hclose hr hrun hg hwall hone hlast
  let u := s.withTodo (s.todo.filter (fun v => v != .count k))
  obtain ⟨htaken, hrem⟩ := counted_wall (s := s) hg hwall
  have h0 : (s.counted r).1.remaining = 0 := by rw [hrem, hone]
  have hslice : u.boundarySlice = s.boundarySlice := by
    have hopen : u.awaits .openPeriod = s.awaits .openPeriod :=
      Bool.eq_iff_iff.mpr (by simp only [State.awaits, u, State.withTodo_todo, List.contains_iff_mem, List.mem_filter]; simp)
    rw [State.boundarySlice, State.boundarySlice, hopen]
    rfl
  have hready : s.readyToCount k = s := by rw [State.readyToCount, takeOne_absent hclose, ite_self]
  have hruns : s.stageRunsOut k false = true := by
    simp [State.stageRunsOut, hcount, hready, hr, State.runsOut, hrun, htaken, h0, Record.hasNextStage, hlast]
  obtain ⟨x, before, hx, hends⟩ := countRecord_ends (s := u) hc (hl.of_eq rfl rfl) hr hrun hlast htaken h0
  let t := settleFrom u (before.leaveStarted x)
  have ht : t = { before.leaveStarted x with ann := t.ann } := settleFrom_eq u _
  have hexec : exec (.recordEnd k) s = .next t := by
    show Host.Outcome.next (if s.stageRunsOut k false = true then s.take (.count k) else s) = _
    rw [if_pos hruns, take_count hcount hclose, takeOne_awaited hcount]
    exact congrArg _ hx
  have htable : t.table = x.table := by rw [ht]; rfl
  have hburners : t.burners = x.burners := by rw [ht]; rfl
  have happ : t.app = s.app.drop (s.leaving t r.station) s.boundarySlice := by
    have hleaving : s.leaving t r.station = u.leaving x r.station := by rw [State.leaving, htable]; rfl
    have hx' : x.app = s.app.drop (u.leaving x r.station) u.boundarySlice := hends.app
    rw [hleaving, ← hslice, ← hx', ht]
    rfl
  obtain ⟨q, hq, hended, hzero, halert, -⟩ := hends.ended
  refine ⟨t, hexec, ?_, ?_, ⟨q, by rw [htable, hq], hended, hzero, halert⟩, happ ▸ Apportioner.drop_dropped _ _ _,
    State.AnnTaken.of_todo (settleFrom_annTaken (s := u) hends.ann), fun hno => ?_⟩
  · refine Bool.eq_false_iff.mpr fun h => ?_
    have hleft := leaveStarted_awaits_count (s := before) (t := x) (k := k) (by rw [ht] at h; exact h)
    simp [State.awaits, hends.todo, u] at hleft
  · have hhost := countRecord_sameHost u k
    rw [hx] at hhost
    exact ((withTodo_sameHost s _).trans hhost).eq_onRecords
  · exact (hends.alone hno).congr rfl rfl rfl htable hburners

end Sys2Proof.Machine
end


section
/-! SUPPORT. The clock's share of a second boundary (R23, R43, R68, R69, R76, R85): which records it counts, which it places, and what
work it leaves. -/

namespace Sys2Proof.Machine

/-! ### Work that is left (R43, R76) -/

theorem awaits_iff {s : State} {w : Work} : s.awaits w = true ↔ w ∈ s.todo := List.contains_iff_mem

theorem Table.mem_newly {before after : Table} {p : Record → Bool} {k : Nat} :
    k ∈ before.newly after p ↔ k ∈ allSlots ∧ (after.rec? k).any p = true ∧ (before.rec? k).any p = false := by
  unfold Table.newly
  rw [List.mem_filter, Table.mem_slotsWhere, Bool.not_eq_true']
  have hany : ∀ o : Option Record, o.elim false p = o.any p := fun o => by cases o <;> rfl
  rw [hany, and_assoc, Option.any_eq_true]

/-- The work left: what was there, but for countdowns of records that began to run, and the notes of offsets that began. -/
theorem leaveStarted_awaits_iff {before after : State} {w : Work} : (before.leaveStarted after).awaits w = true ↔
    (after.awaits w = true ∧ ∀ k ∈ before.table.newly after.table (fun r => r.state == .running), w ≠ .count k)
    ∨ (after.awaits .clock = true ∧ ∃ k ∈ before.table.newly after.table Record.countsStart, w = .released k) := by
  have hbegun : ((before.table.newly after.table (fun r => r.state == .running)).map Work.count).contains w = false ↔
      ∀ k ∈ before.table.newly after.table (fun r => r.state == .running), w ≠ .count k := by
    rw [← Bool.not_eq_true, List.contains_iff_mem, List.mem_map]
    exact ⟨fun h k hk he => h ⟨k, hk, he.symm⟩, fun h ⟨k, hk, he⟩ => h k hk he.symm⟩
  simp only [awaits_iff, State.leaveStarted, State.withTodo_todo, List.mem_append, List.mem_filter, Bool.not_eq_true', hbegun]
  refine or_congr_right ?_
  by_cases hc : Work.clock ∈ after.todo
  · rw [if_pos hc, List.mem_map]
    exact ⟨fun ⟨k, hk, he⟩ => ⟨hc, k, hk, he.symm⟩, fun ⟨_, k, hk, he⟩ => ⟨k, hk, he.symm⟩⟩
  · rw [if_neg hc]
    exact ⟨fun h => absurd h List.not_mem_nil, fun h => absurd h.1 hc⟩

/-! ### What the clock's share makes due (R68, R69, R76) -/

/-- The start condition counts at second boundaries. -/
theorem Record.countsStart_iff {r : Record} : r.countsStart = true ↔
    r.state = .armed ∧ (r.start.kind = .delay ∨ (r.start.kind = .after ∧ r.start.linked = 0)) := by
  simp [Record.countsStart]

theorem Record.waitsClock_iff {r : Record} : r.waitsClock = true ↔ r.state = .armed ∧ r.start.kind = .clockTime := by
  simp [Record.waitsClock]

section

variable {s : State} {k : Nat} {r : Record}

theorem startCounts_iff (hr : s.table.rec? k = some r) : s.startCounts k = true ↔
    s.awaits (.released k) = false ∧ r.state = .armed ∧ (r.start.kind = .delay ∨ (r.start.kind = .after ∧ r.start.linked = 0)) := by
  simp only [State.startCounts, hr, Option.elim_some, Bool.and_eq_true, Bool.not_eq_true', Record.countsStart_iff]

theorem startDue_iff (hr : s.table.rec? k = some r) : s.startDue k = true ↔
    r.state = .armed ∧ ((s.awaits (.released k) = false ∧ r.start.count ≤ 1
        ∧ (r.start.kind = .delay ∨ (r.start.kind = .after ∧ r.start.linked = 0)))
      ∨ (r.start.kind = .clockTime ∧ r.start.minute * 60 = (s.time.clock + 1) % 86400)) := by
  have hreading : s.time.nextReading = (s.time.clock + 1) % 86400 := rfl
  simp only [State.startDue, hr, Option.elim_some, Bool.or_eq_true, Bool.and_eq_true, decide_eq_true_eq, beq_iff_eq, startCounts_iff hr,
    Record.waitsClock_iff, hreading]
  constructor
  · rintro (⟨⟨hrel, harmed, hkind⟩, hcount⟩ | ⟨⟨harmed, hkind⟩, hminute⟩)
    · exact ⟨harmed, .inl ⟨hrel, hcount, hkind⟩⟩
    · exact ⟨harmed, .inr ⟨hkind, hminute⟩⟩
  · rintro ⟨harmed, ⟨hrel, hcount, hkind⟩ | ⟨hkind, hminute⟩⟩
    · exact .inl ⟨⟨hrel, harmed, hkind⟩, hcount⟩
    · exact .inr ⟨⟨harmed, hkind⟩, hminute⟩

theorem mem_due : k ∈ allSlots.filter s.startDue ↔ k ∈ allSlots ∧ ∃ r, s.table.rec? k = some r ∧ r.state = .armed
    ∧ ((s.awaits (.released k) = false ∧ r.start.count ≤ 1
        ∧ (r.start.kind = .delay ∨ (r.start.kind = .after ∧ r.start.linked = 0)))
      ∨ (r.start.kind = .clockTime ∧ r.start.minute * 60 = (s.time.clock + 1) % 86400)) := by
  rw [List.mem_filter]
  refine and_congr_right fun _ => ⟨fun h => ?_, fun ⟨r, hr, h⟩ => (startDue_iff hr).mpr h⟩
  obtain ⟨r, hr, -⟩ := startDue_armed h
  exact ⟨r, hr, (startDue_iff hr).mp h⟩

/-- A record whose count has fallen, or has not, before any is placed. -/
theorem countStarts_rec? (hk : k ∈ allSlots) (hr : s.table.rec? k = some r) :
    s.countStarts.table.rec? k = some (if s.startCounts k = true then r.countDown else r) := by
  rw [(countStarts_mapped s).rec?, hr, Option.map_some]
  exact congrArg some (if_congr (by rw [List.mem_filter, and_iff_right hk]) rfl rfl)

/-- A record that does not fall due is counted down, or stays as it is. -/
theorem advanceClock_rec?_other (hc : s.table.Consistent) (hr : s.table.rec? k = some r) (hdue : s.startDue k = false) :
    s.advanceClock.table.rec? k = some (if s.startCounts k = true then r.countDown else r) := by
  have hn := ((keeps_countStarts s).table hc).nearly noSlot
  rw [(advanceClock_onTable s).1, placeAll_rec?_other hn (allSlots_nodup.filter _) (countStarts_allArmed s)
    (by simp [List.mem_filter, hdue])]
  exact countStarts_rec? (Table.mem_allSlots_of_rec? hc.slots hr) hr

/-- A record that falls due runs in its first stage, or is queued. -/
theorem advanceClock_stands (hc : s.table.Consistent) (hr : s.table.rec? k = some r) (hdue : s.startDue k = true) :
    ∃ q, s.advanceClock.table.rec? k = some q ∧ q.station = r.station
      ∧ ((q.state = .running ∧ q.stage = 1) ∨ q.state = .queued) := by
  have hn := ((keeps_countStarts s).table hc).nearly noSlot
  have hk := Table.mem_allSlots_of_rec? hc.slots hr
  obtain ⟨q, hq, hst, hstate⟩ := placeAll_stands hn (allSlots_nodup.filter _) (countStarts_allArmed s)
    (List.mem_filter.mpr ⟨hk, hdue⟩) (countStarts_rec? hk hr)
  refine ⟨q, (congrArg (fun t : Table => t.rec? k) (advanceClock_onTable s).1).trans hq, hst.trans ?_, hstate⟩
  split <;> rfl

end

/-- The start condition is spent when a record is placed, whatever its count was. -/
theorem Record.countDown_placed (r : Record) (u : SettingsUnit) : r.countDown.entering u = r.entering u ∧ r.countDown.joining = r.joining :=
  ⟨rfl, rfl⟩

/-- Records placed together are read the same before their counts fell. -/
theorem State.PlacedTogether.of_counted {s t : State} {ks : List Nat} (h : s.countStarts.PlacedTogether t ks)
    (hks : ∀ k ∈ ks, k ∈ allSlots) : s.PlacedTogether t ks := by
  have hm := countStarts_mapped s
  have hframe : s.countStarts = s.withTable s.countStarts.table := foldl_modify_eq Record.countDown _ s
  have hburner : ∀ f, s.countStarts.burner f = s.burner f := State.burner_congr (by rw [hframe]; rfl)
  have hset : s.countStarts.settings = s.settings := by rw [hframe]; rfl
  have hon : ∀ st, s.countStarts.table.onStation ks st = s.table.onStation ks st := fun st =>
    List.filter_congr fun k _ => by
      rw [hm.rec?]
      cases s.table.rec? k with
      | none => rfl
      | some r =>
        simp only [Option.map_some, Option.any_some]
        split <;> rfl
  refine ⟨h.ascending, fun st h8 hcase => ?_, fun st k rest h8 h0 hfirst => ?_, fun k hk r hr => ?_⟩
  · have := h.joined st h8 (by rwa [hm.head, hon])
    rwa [hm.head, hm.queue, hon, hburner] at this
  · exact h.headed st k rest h8 (by rwa [hm.head]) (by rwa [hon])
  · have := h.record k hk _ (countStarts_rec? (hks k hk) hr)
    by_cases hcounts : s.startCounts k = true
    · rw [if_pos hcounts] at this
      simp only [hm.head, hon, hset, Record.countDown_placed] at this
      exact this
    · rw [if_neg hcounts] at this
      simpa only [hm.head, hon, hset] using this

/-! ### The work that the clock's share leaves (R43) -/

theorem countStarts_frame (s : State) : s.countStarts = s.withTable s.countStarts.table := foldl_modify_eq Record.countDown _ s

/-- The clock's share leaves the other shares, but for the countdown of records that began to run in it. -/
theorem advanceClock_awaits {s : State} {w : Work} : s.advanceClock.awaits w = true ↔
    isNote w = false ∧ s.awaits w = true ∧ ∀ k ∈ s.table.newly s.advanceClock.table (fun r => r.state == .running), w ≠ .count k := by
  let placed := s.countStarts.placeAll (allSlots.filter s.startDue)
  have htodo : placed.todo = s.todo := by
    show (s.countStarts.placeAll (allSlots.filter s.startDue)).todo = _
    rw [placeAll_eq, countStarts_frame]
    rfl
  have hawaits : s.advanceClock.awaits w = true ↔ (s.leaveStarted placed).awaits w = true ∧ isNote w = false := by
    simp only [awaits_iff]
    exact List.mem_filter.trans (and_congr_right fun _ => by rw [Bool.not_eq_true'])
  have hplaced : placed.awaits w = s.awaits w := congrArg (fun l : List Work => l.contains w) htodo
  rw [hawaits, leaveStarted_awaits_iff, hplaced, and_comm]
  refine and_congr_right fun hnote => or_iff_left ?_
  rintro ⟨-, k, -, rfl⟩
  exact absurd hnote (by simp [isNote])

/-- The clock's share taken. -/
theorem take_clock {s : State} (h : s.awaits .clock = true) :
    s.take .clock = (s.withTodo (s.todo.filter (fun v => v != .clock))).advanceClock := by
  rw [State.take, if_pos h]
  exact takeOne_awaited h

theorem awaits_without_clock (s : State) {w : Work} (hw : w ≠ .clock) :
    (s.withTodo (s.todo.filter (fun v => v != .clock))).awaits w = s.awaits w :=
  Bool.eq_iff_iff.mpr (by simp [awaits_iff, hw])

theorem take_clock_awaits_clock {s : State} (h : s.awaits .clock = true) : (s.take .clock).awaits .clock = false := by
  rw [take_clock h]
  refine Bool.eq_false_iff.mpr fun hw => ?_
  obtain ⟨-, hw, -⟩ := advanceClock_awaits.mp hw
  simp [awaits_iff] at hw

/-- A record counted at this boundary was to be counted before the clock's share, and did not begin to run in it. -/
theorem take_clock_awaits_count {s : State} (hc : s.table.Consistent) (h : s.awaits .clock = true) (k : Nat) :
    (s.take .clock).awaits (.count k) = true ↔ s.awaits (.count k) = true
      ∧ (((s.take .clock).table.rec? k).any (fun r => r.state == .running) = true →
          (s.table.rec? k).any (fun r => r.state == .running) = true) := by
  have hct := (keeps_take s .clock).table hc
  rw [take_clock h] at hct ⊢
  rw [advanceClock_awaits, awaits_without_clock s (by simp), and_iff_right (by rfl : isNote (.count k) = false)]
  refine and_congr_right fun _ => ⟨fun hnew hrun => ?_, fun hrun j hj hkj => ?_⟩
  · obtain ⟨r, hr, -⟩ := Option.any_eq_true _ _ |>.mp hrun
    by_contra hnot
    exact hnew k (Table.mem_newly.mpr ⟨Table.mem_allSlots_of_rec? hct.slots hr, hrun, Bool.eq_false_iff.mpr hnot⟩) rfl
  · obtain rfl := Work.count.inj hkj
    obtain ⟨-, hafter, hbefore⟩ := Table.mem_newly.mp hj
    exact absurd (hrun hafter) (Bool.eq_false_iff.mp hbefore)

/-- The clock and the start conditions are taken as one event. -/
theorem take_clock_startsTaken {s : State} (hc : s.table.Consistent) (hl : s.LevelsFollow) (h : s.awaits .clock = true) :
    s.StartsTaken (s.take .clock) := by
  let u := s.withTodo (s.todo.filter (fun v => v != .clock))
  have ht : s.take .clock = u.advanceClock := take_clock h
  have hcu : u.table.Consistent := hc
  have hkeep := keeps_countStarts u
  have hreleased : ∀ k, u.awaits (.released k) = s.awaits (.released k) := fun k => awaits_without_clock s (by simp)
  have hasc : (allSlots.filter u.startDue).Pairwise (· < ·) := allSlots_pairwise.filter _
  have htogether : u.PlacedTogether (u.countStarts.placeAll (allSlots.filter u.startDue)) (allSlots.filter u.startDue) :=
    (placeAll_together ((hkeep.table hcu).nearly noSlot) (hkeep.levels hcu (hl.of_eq rfl rfl)) hasc (countStarts_allArmed u)).of_counted
      fun k hk => (List.mem_filter.mp hk).1
  refine ⟨?_, ⟨allSlots.filter u.startDue, ?_, fun k => ?_, fun k hk => ?_⟩, take_clock_awaits_clock h,
    take_clock_awaits_count hc h, fun w hw hnot => ?_⟩
  · rw [ht]
    conv_lhs => rw [advanceClock_eq]
    rfl
  · rw [ht]
    exact htogether.congr rfl rfl rfl rfl rfl
  · rw [mem_due, hreleased]
    rfl
  · rw [ht]
    cases hr : s.table.rec? k with
    | none =>
      have hn := (hkeep.table hcu).nearly noSlot
      rw [(advanceClock_onTable u).1, placeAll_rec?_other hn (allSlots_nodup.filter _) (countStarts_allArmed u) hk,
        (countStarts_mapped u).rec?]
      exact congrArg (Option.map _) hr
    | some r =>
      have hdue : u.startDue k = false := Bool.eq_false_iff.mpr fun h =>
        hk (List.mem_filter.mpr ⟨Table.mem_allSlots_of_rec? hc.slots hr, h⟩)
      rw [advanceClock_rec?_other hcu hr hdue, Option.map_some]
      exact congrArg some (if_congr ((startCounts_iff (s := u) hr).trans (by rw [hreleased])) rfl rfl)
  · rw [ht]
    refine Bool.eq_iff_iff.mpr (advanceClock_awaits.trans ?_)
    rw [awaits_without_clock s hw]
    have hnote : isNote w = false := by
      cases w with
      | released k => exact absurd rfl (hnot k).2
      | _ => rfl
    exact ⟨fun h => h.2.1, fun h => ⟨hnote, h, fun j _ => (hnot j).1⟩⟩

end Sys2Proof.Machine
end


section
/-! PROOFS. The start conditions at a second boundary (R23, R67 to R69, R75, R76, R90): O25. -/

namespace Sys2Proof.Machine

/-! ### A record beside the countdown of another -/

/-- What the countdown of another record may do to a record that does not wait on it: promote it, or start a grace on it. -/
structure Record.Beside (q q' : Record) : Prop where
  station : q'.station = q.station
  armed : q.state = .armed → q' = q
  still : q'.state = .armed → q.state = .armed
  queued : q.state = .queued → q'.state = .queued ∨ (q'.state = .running ∧ q'.stage = 1)
  running : q.state = .running → q'.state = .running ∧ q'.stage = q.stage

theorem Record.Beside.refl (q : Record) : q.Beside q := ⟨rfl, fun _ => rfl, id, .inl, fun h => ⟨h, rfl⟩⟩

/-- An ARMED head gives no level, so following it starts no grace. -/
theorem follow_beside {s : State} {k : Nat} {q : Record} (hq : s.table.rec? k = some q) (st : Nat) :
    ∃ q', (s.follow st).table.rec? k = some q' ∧ q.Beside q' := by
  by_cases hl : s.lights st
  · rw [follow_table_lights hl, Table.rec?_modify]
    split
    · next hk =>
      refine ⟨q.startGrace s.settings, by rw [← hk, hq]; rfl, rfl, fun ha => ?_, id, .inl, fun h => ⟨h, rfl⟩⟩
      have hlevel : s.table.levelOf st = q.givenLevel := by
        rw [Table.levelOf_eq, Table.headRec?, ← hk, hq, Option.elim_some]
      exact absurd (hlevel.trans (Record.givenLevel_dark (by simp [Record.lit, ha]))) hl.2.1
    · exact ⟨q, hq, .refl q⟩
  · rw [follow_table_steady hl]
    exact ⟨q, hq, .refl q⟩

/-- A promotion may reach the record only out of its queue. -/
theorem promote_beside {s : State} (hs : s.table.Shaped) {st k : Nat} {q : Record} (hst : st < 8) (hq : s.table.rec? k = some q)
    (hqueue : ∀ n ∈ s.table.queue st, ∃ p, s.table.rec? n = some p ∧ p.station = st ∧ p.state = .queued) :
    ∃ q', (s.promote st).table.rec? k = some q' ∧ q.Beside q' := by
  cases hcons : s.table.queue st with
  | nil =>
    rw [promote_empty_table hs hst hcons, Table.rec?_setHead]
    exact ⟨q, hq, .refl q⟩
  | cons n rest =>
    obtain ⟨p, hp, hpst, hqueued⟩ := hqueue n (by rw [hcons]; exact List.mem_cons_self)
    obtain ⟨q', hu, hq', -⟩ := promote_cons_update hs hst hcons hp
    by_cases hk : k = n
    · obtain rfl := Option.some.inj (hq.symm.trans (hk ▸ hp))
      refine ⟨q', by rw [hk, hu.rec?_same], ?_⟩
      rcases hq' with rfl | rfl
      · exact ⟨rfl, fun h => by simp [hqueued] at h, fun h => by simp [Record.begun] at h, fun _ => .inr ⟨rfl, rfl⟩,
          fun h => by simp [hqueued] at h⟩
      · exact ⟨rfl, fun h => by simp [hqueued] at h, fun h => by simp [Record.begun, Record.startGrace] at h, fun _ => .inr ⟨rfl, rfl⟩,
          fun h => by simp [hqueued] at h⟩
    · rw [hu.rec?_other hk]
      exact ⟨q, hq, .refl q⟩

/-- The end of another record's stage. -/
theorem endStage_beside {s : State} (hc : s.table.Consistent) {j k i : Nat} {r q : Record} (hr : s.table.rec? j = some r)
    (hrun : r.state = .running) (hq : s.table.rec? k = some q) (hkj : k ≠ j) (hw : q.waitsOn j = false) :
    ∃ q', (s.endStage j i).table.rec? k = some q' ∧ q.Beside q' := by
  have hn := hc.nearly noSlot
  have hst := hn.station_lt hr
  have hother : ∀ f, (s.modify j f).table.rec? k = some q := fun f => by rw [State.rec?_modify, if_neg hkj, hq]
  simp only [State.endStage, hr]
  split
  · rw [nextStage_eq hr]
    exact follow_beside (hother _) _
  · next hlast =>
    have hkeep := keeps_finished hr hrun (by simpa using hlast)
    have hfinished : ∃ q', (s.finished j r).table.rec? k = some q' ∧ q.Beside q' := by
      unfold State.finished
      split
      · exact follow_beside (hother _) _
      · refine promote_beside ((Table.modify_update hc.shaped hst hr _).shaped hc.shaped) hst (hother _) fun n hm => ?_
        rw [State.modify_table, Table.queue_modify] at hm
        obtain ⟨p, hp, hpst, hqueued, -⟩ := hn.of_mem_queue hst hm
        have hnj : n ≠ j := fun h => by
          rw [h, hr] at hp
          simp [← Option.some.inj hp, hrun] at hqueued
        exact ⟨p, by rw [State.rec?_modify, if_neg hnj, hp], hpst, hqueued⟩
    obtain ⟨q', hq', hbeside⟩ := hfinished
    rw [endRecord_eq hr]
    refine ⟨q', ?_, hbeside⟩
    refine (release_rec?_other ((hkeep.table hc).nearly noSlot) fun p hp => ?_).trans hq'
    obtain rfl := Option.some.inj (hq'.symm.trans hp)
    refine Bool.eq_false_iff.mpr fun hwait => ?_
    rw [hbeside.armed (hbeside.still (Record.waitsOn_armed hwait)), hw] at hwait
    exact Bool.false_ne_true hwait

theorem endStage_todo (s : State) (j i : Nat) : (s.endStage j i).todo = s.todo := by
  cases hr : s.table.rec? j with
  | none => simp only [State.endStage, hr]
  | some r =>
    simp only [State.endStage, hr]
    split
    · rw [nextStage_eq hr, follow_eq]; rfl
    · rw [endRecord_frame hr]

/-- A countdown writes its own record, and where the stage runs out ends it; what begins to run is left for later. -/
theorem countRecord_cases (s : State) (j : Nat) :
    ((∀ k, k ≠ j → (s.countRecord j).table.rec? k = s.table.rec? k) ∧ (s.countRecord j).todo = s.todo)
    ∨ ∃ r q before after, s.table.rec? j = some r ∧ r.state = .running ∧ r.SameCourse q
      ∧ after = (s.pending1 j q).endStage j s.boundarySlice
      ∧ (∀ k, k ≠ j → (s.countRecord j).table.rec? k = after.table.rec? k)
      ∧ (∀ k, k ≠ j → before.table.rec? k = s.table.rec? k)
      ∧ (s.countRecord j).todo = (State.leaveStarted before after).todo := by
  cases hr : s.table.rec? j with
  | none => exact .inl ⟨fun k _ => by simp only [State.countRecord, hr], by simp only [State.countRecord, hr]⟩
  | some r =>
    by_cases hrun : r.state = .running
    · generalize hp : s.counted r = p
      have hcourse : r.SameCourse p.1 := by
        obtain ⟨h, -, -⟩ := counted_cases s r
        rwa [hp] at h
      let written := s.withTable (s.table.put j (some p.1))
      have hwritten : ∀ k, k ≠ j → written.table.rec? k = s.table.rec? k := fun k hk => Table.rec?_put_other _ _ hk
      have hcount : ∀ x, (if (p.2 && p.1.remaining == 0) = true then written.leaveStarted (written.endStage j s.boundarySlice)
          else written) = x → (∀ k, k ≠ j → (s.countRecord j).table.rec? k = x.table.rec? k) ∧ (s.countRecord j).todo = x.todo := by
        rintro x rfl
        simp only [State.countRecord, hr, hrun, hp, beq_self_eq_true, if_true]
        rw [settleFrom_eq]
        by_cases htaken : p.2 = true
        · rw [if_pos htaken]
          exact ⟨fun k hk => by rw [State.rec?_modify, if_neg hk], rfl⟩
        · rw [if_neg htaken]
          exact ⟨fun k _ => rfl, rfl⟩
      by_cases hout : (p.2 && p.1.remaining == 0) = true
      · obtain ⟨hrec, htodo⟩ := hcount _ (if_pos hout)
        have hzero : p.1.remaining = 0 := by simpa using (Bool.and_eq_true_iff.mp hout).2
        rw [endStage_runs_out hr hzero] at hrec htodo
        exact .inr ⟨r, p.1, written, _, rfl, hrun, hcourse, rfl, hrec, hwritten, htodo⟩
      · obtain ⟨hrec, htodo⟩ := hcount _ (if_neg hout)
        exact .inl ⟨fun k hk => (hrec k hk).trans (hwritten k hk), htodo⟩
    · have hsame : s.countRecord j = s := by
        simp only [State.countRecord, hr]
        exact if_neg (by simpa using hrun)
      exact .inl ⟨fun k _ => by rw [hsame], by rw [hsame]⟩

/-- The countdown of another record, as a record that does not wait on it sees it: where it begins to run, it is not counted. -/
theorem countRecord_beside {s : State} (hc : s.table.Consistent) {j k : Nat} {q : Record} (hq : s.table.rec? k = some q) (hkj : k ≠ j)
    (hw : q.waitsOn j = false) : ∃ q', (s.countRecord j).table.rec? k = some q' ∧ q.Beside q'
      ∧ ((s.countRecord j).awaits (.count k) = true →
          s.awaits (.count k) = true ∧ (q'.state = .running → q.state = .running)) := by
  rcases countRecord_cases s j with ⟨hrec, htodo⟩ | ⟨r, p, before, after, hr, hrun, hcourse, hafter, hrec, hbefore, htodo⟩
  · refine ⟨q, (hrec k hkj).trans hq, .refl q, fun h => ⟨?_, id⟩⟩
    rwa [awaits_iff, htodo, ← awaits_iff] at h
  · have hkeep := keeps_pending1 hr hcourse
    have hprun : p.state = .running := by rw [hcourse]; exact hrun
    obtain ⟨q', hq', hbeside⟩ := endStage_beside (hkeep.table hc) (i := s.boundarySlice) (pending1_rec? hr p) hprun
      (q := q) (by rw [State.pending1, State.rec?_modify, if_neg hkj, hq]) hkj hw
    rw [← hafter] at hq'
    refine ⟨q', (hrec k hkj).trans hq', hbeside, fun h => ?_⟩
    rw [awaits_iff, htodo, ← awaits_iff, leaveStarted_awaits_iff] at h
    obtain ⟨hstill, hnew⟩ := h.resolve_right fun ⟨_, i, _, hi⟩ => by simp at hi
    refine ⟨?_, fun hrun' => by_contra fun hnot => ?_⟩
    · rwa [awaits_iff, hafter, endStage_todo, ← awaits_iff] at hstill
    · refine hnew k (Table.mem_newly.mpr ⟨Table.mem_allSlots_of_rec? hc.slots hq, ?_, ?_⟩) rfl
      · simp [hq', hrun']
      · simp [hbefore k hkj, hq, hnot]

/-- A countdown brings no clock's share. -/
theorem countRecord_awaits_clock {s : State} {j : Nat} (h : (s.countRecord j).awaits .clock = true) : s.awaits .clock = true := by
  rcases countRecord_cases s j with ⟨-, htodo⟩ | ⟨r, p, before, after, -, -, -, hafter, -, -, htodo⟩
  · rwa [awaits_iff, htodo, ← awaits_iff] at h
  · rw [awaits_iff, htodo, ← awaits_iff, leaveStarted_awaits_iff] at h
    obtain ⟨hstill, -⟩ := h.resolve_right fun ⟨_, i, _, hi⟩ => by simp at hi
    rwa [awaits_iff, hafter, endStage_todo, ← awaits_iff] at hstill

/-! ### The rest of the Record Engine's work (R84, R90) -/

theorem awaits_filter {s : State} {v w : Work} (h : (s.withTodo (s.todo.filter (fun x => x != v))).awaits w = true) : s.awaits w = true := by
  rw [awaits_iff] at h ⊢
  exact (List.mem_filter.mp h).1

/-- A countdown is taken, or it is not to be taken. -/
theorem takeOne_count (s : State) (j : Nat) : (s.awaits (.count j) = false ∧ s.takeOne (.count j) = s)
    ∨ (s.awaits (.count j) = true
      ∧ s.takeOne (.count j) = (s.withTodo (s.todo.filter (fun v => v != .count j))).countRecord j) := by
  cases h : s.awaits (.count j) with
  | false => exact .inl ⟨rfl, takeOne_absent h⟩
  | true => exact .inr ⟨rfl, takeOne_awaited h⟩

theorem takeOne_closePeriod (s : State) : (s.takeOne .closePeriod).table = s.table
    ∧ ∀ w, (s.takeOne .closePeriod).awaits w = true → s.awaits w = true := by
  cases h : s.awaits .closePeriod with
  | false => rw [takeOne_absent h]; exact ⟨rfl, fun _ => id⟩
  | true => rw [takeOne_awaited h]; exact ⟨rfl, fun _ => awaits_filter⟩

/-- What the closing of a period and every countdown keep, the rest of the engine's work keeps, once the clock's share is taken. -/
theorem takeEngine_keeps {P : State → Prop} (hclose : ∀ s, P s → P (s.takeOne .closePeriod))
    (hcount : ∀ s j, s.table.Consistent → P s → P (s.takeOne (.count j))) {s : State} (hc : s.table.Consistent)
    (hclock : s.awaits .clock = false) (h : P s) : P s.takeEngine := by
  have hfold : ∀ (js : List Nat) (u : State), u.table.Consistent → u.awaits .clock = false → P u →
      P (u.takeEach (js.map Work.count)) ∧ (u.takeEach (js.map Work.count)).awaits .clock = false := by
    intro js
    induction js with
    | nil => exact fun u _ hclock h => ⟨h, hclock⟩
    | cons j js ih =>
      intro u hu hclock h
      refine ih (u.takeOne (.count j)) ((keeps_takeOne u _).table hu) ?_ (hcount u j hu h)
      rcases takeOne_count u j with ⟨-, he⟩ | ⟨-, he⟩
      · rwa [he]
      · rw [he]
        exact Bool.eq_false_iff.mpr fun hw => Bool.eq_false_iff.mp hclock (awaits_filter (countRecord_awaits_clock hw))
  obtain ⟨hP, hnone⟩ := hfold allSlots (s.takeOne .closePeriod) ((keeps_takeOne s _).table hc)
    (Bool.eq_false_iff.mpr fun hw => Bool.eq_false_iff.mp hclock ((takeOne_closePeriod s).2 _ hw)) (hclose s h)
  have hlast : s.takeEngine = ((s.takeOne .closePeriod).takeEach (allSlots.map Work.count)).takeOne .clock := by
    unfold State.takeEngine engineWork State.takeEach
    rw [List.foldl_append, List.foldl_cons, List.foldl_nil]
  rwa [hlast, takeOne_absent hnone]

/-- A refresh once the clock's share is taken reads the table as it stands, or as the rest of the engine's work leaves it. -/
theorem take_refresh_table {s : State} (hclock : s.awaits .clock = false) :
    (s.take .refresh).table = s.table ∨ (s.take .refresh).table = s.takeEngine.table := by
  have hsync : ∀ u : State, (u.takeOne .syncTick).table = u.table := fun u => by
    unfold State.takeOne; split <;> rfl
  have hrefresh : ∀ u : State, (u.takeOne .refresh).table = u.table := fun u => by
    unfold State.takeOne
    split
    · show (State.refreshDue _).table = _
      unfold State.refreshDue
      split <;> rfl
    · rfl
  cases h : s.awaits .refresh with
  | false => rw [take_absent h]; exact .inl rfl
  | true =>
    have hall : engineWork.all s.awaits = false := by
      rw [List.all_eq_false]
      exact ⟨.clock, List.mem_append_right _ List.mem_cons_self, by simp [hclock]⟩
    rw [take_refresh_after h hall, hrefresh, hsync]
    exact .inr rfl

/-- A record that waits for a START, for an instant or for its count is left alone by the countdowns of others. -/
theorem takeOne_count_armed {k : Nat} {q : Record} (harmed : q.state = .armed) (hlink : q.holdsLink = false) {s : State} (j : Nat)
    (hc : s.table.Consistent) (hq : s.table.rec? k = some q) : (s.takeOne (.count j)).table.rec? k = some q := by
  rcases takeOne_count s j with ⟨-, he⟩ | ⟨-, he⟩
  · rwa [he]
  · rw [he]
    by_cases hkj : k = j
    · subst hkj
      simp only [State.countRecord, State.withTodo_table, hq, harmed]
      exact hq
    · obtain ⟨q', hq', hbeside, -⟩ := countRecord_beside (s := s.withTodo (s.todo.filter (fun v => v != .count j))) hc hq hkj
        (by simp [Record.waitsOn, hlink])
      rw [hq', hbeside.armed harmed]

/-- The record stands where it was placed: queued, or running in its first stage and not to be counted at this boundary. -/
def State.Stands (s : State) (k st : Nat) : Prop :=
  ∃ q, s.table.rec? k = some q ∧ q.station = st
    ∧ (q.state = .queued ∨ (q.state = .running ∧ q.stage = 1 ∧ s.awaits (.count k) = false))

theorem takeOne_count_stands {s : State} {k st : Nat} (j : Nat) (hc : s.table.Consistent) (h : s.Stands k st) :
    (s.takeOne (.count j)).Stands k st := by
  rcases takeOne_count s j with ⟨-, he⟩ | ⟨hawaits, he⟩
  · rwa [he]
  · obtain ⟨q, hq, hst, hstate⟩ := h
    rw [he]
    let u := s.withTodo (s.todo.filter (fun v => v != .count j))
    by_cases hkj : k = j
    · subst hkj
      have hqueued : q.state = .queued := hstate.resolve_right fun ⟨_, _, h⟩ => by simp [hawaits] at h
      refine ⟨q, ?_, hst, .inl hqueued⟩
      simp only [State.countRecord, State.withTodo_table, hq, hqueued]
      exact hq
    · have hnot : q.state ≠ .armed := fun ha => by rcases hstate with h | ⟨h, -⟩ <;> simp [h] at ha
      obtain ⟨q', hq', hbeside, hcount⟩ := countRecord_beside (s := u) hc hq hkj
        (Bool.eq_false_iff.mpr fun hw => hnot (Record.waitsOn_armed hw))
      refine ⟨q', hq', hbeside.station.trans hst, ?_⟩
      rcases hstate with hqueued | ⟨hrun, hone, hnone⟩
      · refine (hbeside.queued hqueued).imp_right fun ⟨hrun, hone⟩ => ⟨hrun, hone, Bool.eq_false_iff.mpr fun hw => ?_⟩
        have := (hcount hw).2 hrun
        simp [hqueued] at this
      · obtain ⟨hrun', hone'⟩ := hbeside.running hrun
        exact .inr ⟨hrun', hone'.trans hone, Bool.eq_false_iff.mpr fun hw =>
          Bool.eq_false_iff.mp hnone (awaits_filter (hcount hw).1)⟩

/-! ### The second boundary -/

section

variable {s : State} {k : Nat} {r : Record}

/-- What the clock's share leaves of a record that waits on no other, the second boundary leaves. -/
theorem secondBoundary_armed (hc : s.table.Consistent) (hclock : s.awaits .clock = true) {q : Record} (harmed : q.state = .armed)
    (hlink : q.holdsLink = false) (hq : (s.take .clock).table.rec? k = some q) :
    ((s.take .clock).take .refresh).table.rec? k = some q := by
  have hnone := take_clock_awaits_clock hclock
  rcases take_refresh_table hnone with he | he
  · rwa [he]
  · rw [he]
    exact takeEngine_keeps (P := fun u => u.table.rec? k = some q) (fun u hu => by rwa [(takeOne_closePeriod u).1])
      (fun u j hu h => takeOne_count_armed harmed hlink j hu h) ((keeps_take s _).table hc) hnone hq

/-- A record placed at the clock's share stands there after the second boundary. -/
theorem secondBoundary_stands (hc : s.table.Consistent) (hclock : s.awaits .clock = true) {st : Nat}
    (h : (s.take .clock).Stands k st) : ∃ q, ((s.take .clock).take .refresh).table.rec? k = some q ∧ q.station = st
      ∧ ((q.state = .running ∧ q.stage = 1) ∨ q.state = .queued) := by
  have hnone := take_clock_awaits_clock hclock
  have hresult : ∀ u : State, u.Stands k st → ∃ q, u.table.rec? k = some q ∧ q.station = st
      ∧ ((q.state = .running ∧ q.stage = 1) ∨ q.state = .queued) := fun u ⟨q, hq, hst, hstate⟩ =>
    ⟨q, hq, hst, hstate.symm.imp_left fun ⟨h1, h2, _⟩ => ⟨h1, h2⟩⟩
  rcases take_refresh_table hnone with he | he
  · rw [he]
    exact hresult _ h
  · rw [he]
    refine hresult _ (takeEngine_keeps (P := fun u => u.Stands k st) (fun u hu => ?_) (fun u j hu h => takeOne_count_stands j hu h)
      ((keeps_take s _).table hc) hnone h)
    obtain ⟨q, hq, hst, hstate⟩ := hu
    obtain ⟨htable, hawaits⟩ := takeOne_closePeriod u
    exact ⟨q, by rw [htable, hq], hst, hstate.imp_right fun ⟨h1, h2, h3⟩ =>
      ⟨h1, h2, Bool.eq_false_iff.mpr fun hw => Bool.eq_false_iff.mp h3 (hawaits _ hw)⟩⟩

/-- Where no record is to be counted, the second boundary is the clock's share. -/
theorem secondBoundary_uncounted (hc : s.table.Consistent) (hclock : s.awaits .clock = true)
    (h : ∀ j ∈ allSlots, s.awaits (.count j) = false) : ((s.take .clock).take .refresh).table = (s.take .clock).table := by
  have hnone := take_clock_awaits_clock hclock
  rcases take_refresh_table hnone with he | he
  · exact he
  · obtain ⟨htable, hawaits⟩ := takeOne_closePeriod (s.take .clock)
    rw [he, State.takeEngine, takeEach_absent fun w hw => Bool.eq_false_iff.mpr fun hwait => ?_, htable]
    have hwait := hawaits w hwait
    rcases List.mem_append.mp hw with hw | hw
    · obtain ⟨j, hj, rfl⟩ := List.mem_map.mp hw
      exact Bool.eq_false_iff.mp (h j hj) ((take_clock_awaits_count hc hclock j).mp hwait).1
    · rw [List.mem_singleton.mp hw, hnone] at hwait
      exact Bool.false_ne_true hwait

/-- A record that does not fall due, after the clock's share. -/
theorem take_clock_rec?_other (hc : s.table.Consistent) (hclock : s.awaits .clock = true) (hr : s.table.rec? k = some r)
    (hdue : s.startDue k = false) :
    (s.take .clock).table.rec? k = some (if s.startCounts k = true then r.countDown else r) := by
  let u := s.withTodo (s.todo.filter (fun v => v != .clock))
  have hreleased : u.awaits (.released k) = s.awaits (.released k) := awaits_without_clock s (by simp)
  have hcounts : u.startCounts k = s.startCounts k := by simp only [State.startCounts, hreleased]; rfl
  have hdue' : u.startDue k = s.startDue k := by simp only [State.startDue, hcounts]; rfl
  rw [take_clock hclock, advanceClock_rec?_other (s := u) hc hr (hdue'.trans hdue), hcounts]

/-- A record that falls due stands placed after the clock's share. -/
theorem take_clock_stands (hc : s.table.Consistent) (hclock : s.awaits .clock = true) (hr : s.table.rec? k = some r)
    (hdue : s.startDue k = true) (harmed : r.state = .armed) : (s.take .clock).Stands k r.station := by
  let u := s.withTodo (s.todo.filter (fun v => v != .clock))
  have hreleased : u.awaits (.released k) = s.awaits (.released k) := awaits_without_clock s (by simp)
  have hdue' : u.startDue k = s.startDue k := by simp only [State.startDue, State.startCounts, hreleased]; rfl
  obtain ⟨q, hq, hst, hstate⟩ := advanceClock_stands (s := u) hc hr (hdue'.trans hdue)
  rw [← take_clock hclock] at hq
  refine ⟨q, hq, hst, hstate.symm.imp_right fun ⟨hrun, hone⟩ => ⟨hrun, hone, Bool.eq_false_iff.mpr fun hw => ?_⟩⟩
  have := ((take_clock_awaits_count hc hclock k).mp hw).2 (by simp [hq, hrun])
  simp [hr, harmed] at this

end

/-- Settles O25: the clock's share as one event, then what the rest of a second boundary leaves of each kind of start condition. -/
theorem countedStartsFallDue : Obligations.CountedStartsFallDue := by
  refine ⟨fun s hc hl hclock => ?_, fun s k r hc hclock hr harmed => ?_⟩
  · have hstarts := take_clock_startsTaken hc hl hclock
    refine ⟨s.take .clock, hstarts, rfl, fun hrefresh => ?_, fun k r hr hrel harmed hcount => ⟨fun hkind => ?_, fun hkind hlinked => ?_⟩⟩
    · have hnone : (s.take .clock).awaits .refresh = false := by
        rw [hstarts.work .refresh (by simp) (fun _ => ⟨by simp, by simp⟩), hrefresh]
      exact congrArg Host.Outcome.next (take_absent hnone)
    · have hcounts := (startCounts_iff hr).mpr ⟨hrel, harmed, .inl hkind⟩
      exact congrArg Host.Outcome.next (if_pos (by simp [State.fallsDue, hclock, hcounts, hr, hkind, hcount]))
    · have hcounts := (startCounts_iff hr).mpr ⟨hrel, harmed, .inr ⟨hkind, hlinked⟩⟩
      exact congrArg Host.Outcome.next (if_pos (by simp [State.fallsDue, hclock, hcounts, hr, hkind, hcount]))
  · let t := (s.take .clock).take .refresh
    have hread := take_clock_rec?_other hc hclock hr
    have hdue := startDue_iff hr
    have hcounts := startCounts_iff hr
    have hct : t.table.Consistent := ((keeps_take s .clock).trans (keeps_take _ .refresh)).table hc
    have hunmoved : r.holdsLink = false → s.startDue k = false → s.startCounts k = false → t.table.rec? k = some r :=
      fun hlink hnot hstill => by
        have hsame := hread hnot
        rw [if_neg (by simp [hstill])] at hsame
        exact secondBoundary_armed hc hclock harmed hlink hsame
    refine ⟨t, rfl, fun hrel hcount hkind => ?_, fun hrel hkind hlinked => ?_, fun hkind hminute => ?_, fun hkind hminute => ?_,
      fun hkind => ?_, fun hkind hlinked hnone => ?_⟩
    · have hlink : r.holdsLink = false := by
        rcases hkind with h | ⟨-, h⟩ <;> simp [Record.holdsLink, h]
      have hnot : s.startDue k = false := Bool.eq_false_iff.mpr fun h => by
        rcases (hdue.mp h).2 with ⟨-, h, -⟩ | ⟨h, -⟩
        · omega
        · rcases hkind with hk | ⟨hk, -⟩ <;> simp [h] at hk
      have hcounted := hread hnot
      rw [if_pos (hcounts.mpr ⟨hrel, harmed, hkind⟩)] at hcounted
      exact secondBoundary_armed hc hclock harmed hlink hcounted
    · refine hunmoved (by simp [Record.holdsLink, hlinked]) (Bool.eq_false_iff.mpr fun h => ?_) (Bool.eq_false_iff.mpr fun h => ?_)
      · have := (hdue.mp h).2
        simp [hrel, hkind] at this
      · have := (hcounts.mp h).1
        simp [hrel] at this
    · obtain ⟨q, hq, hst, hstate⟩ := secondBoundary_stands hc hclock
        (take_clock_stands hc hclock hr (hdue.mpr ⟨harmed, .inr ⟨hkind, hminute⟩⟩) harmed)
      rw [← hst]
      rcases hstate with ⟨hrun, hone⟩ | hqueued
      · exact ⟨q, hq, .inl ⟨hrun, hone, hct.head_of_isHead hq (by simp [Record.isHead, hrun])⟩⟩
      · exact ⟨q, hq, .inr ⟨hqueued, (hct.queue_iff k q hq).mp hqueued⟩⟩
    · refine hunmoved (by simp [Record.holdsLink, hkind]) (Bool.eq_false_iff.mpr fun h => ?_) (Bool.eq_false_iff.mpr fun h => ?_)
      · have := (hdue.mp h).2
        simp [hkind, hminute] at this
      · have := (hcounts.mp h).2.2
        simp [hkind] at this
    · refine hunmoved (by simp [Record.holdsLink, hkind]) (Bool.eq_false_iff.mpr fun h => ?_) (Bool.eq_false_iff.mpr fun h => ?_)
      · have := (hdue.mp h).2
        simp [hkind] at this
      · have := (hcounts.mp h).2.2
        simp [hkind] at this
    · have hnot : s.startDue k = false := Bool.eq_false_iff.mpr fun h => by
        have := (hdue.mp h).2
        simp [hkind, hlinked] at this
      have hstill : ¬ s.startCounts k = true := fun h => by
        have := (hcounts.mp h).2.2
        simp [hkind, hlinked] at this
      have hsame := hread hnot
      rw [if_neg hstill] at hsame
      rw [show t.table = _ from secondBoundary_uncounted hc hclock hnone, hsame]

end Sys2Proof.Machine
end


section
/-! PROOFS. The total remaining time of a record and its reminder (R44, R56, R89, R184): O34. -/

namespace Sys2Proof.Machine

/-! ### The total by the record's state (R44) -/

/-- A record that waits has all its stages before it. -/
theorem Record.total_waiting {r : Record} (h : r.state = .armed ∨ r.state = .queued) :
    r.total = (r.stages.map Stage.duration).sum := by
  rcases h with h | h <;> simp [Record.total, h, Record.laterDurations]

/-- A record that controls its station has the rest of its stage and the stages after it. -/
theorem Record.total_controlling {r : Record} (h : r.state = .running ∨ r.state = .paused ∨ r.state = .held) :
    r.total = r.remaining + r.laterDurations r.stage := by
  rcases h with h | h | h <;> simp only [Record.total, h]

theorem Record.total_ended {r : Record} (h : r.state = .ended) : r.total = 0 := by
  simp only [Record.total, h]

/-! ### The reminder (R56) -/

/-- The record has a reminder whose threshold its total time has come down to. -/
def Record.withinReminder (r : Record) : Bool := r.reminder.any (fun n => decide (r.total ≤ 10 * n))

theorem Option.elim_false_eq_any {α : Type} (o : Option α) (p : α → Bool) : o.elim false p = o.any p := by
  cases o <;> rfl

theorem Record.withinReminder_iff {r : Record} : r.withinReminder = true ↔ ∃ n, r.reminder = some n ∧ r.total ≤ 10 * n := by
  simp [Record.withinReminder, Option.any_eq_true]

theorem Record.reminderDue_iff {r : Record} :
    r.reminderDue = true ↔ r.state = .running ∧ r.reminderDone = false ∧ r.withinReminder = true := by
  simp [Record.reminderDue, Record.withinReminder, Option.elim_false_eq_any, and_assoc]

/-- A reminder that is due is raised and marked as done; otherwise the record stays. -/
theorem Record.remind_due {r : Record} (h : r.reminderDue = true) :
    r.remind = { r with reminderDone := true, alerts := r.alerts ||| 32#6 } := if_pos h

theorem Record.remind_not_due {r : Record} (h : ¬ r.reminderDue = true) : r.remind = r := if_neg h

/-! ### The record in a QUERY reply (R184) -/

/-- Bytes 21 to 23 of a record are its total remaining time. -/
theorem Record.queryBytes_total (r : Record) (k reading : Nat) :
    ((r.queryBytes k reading).drop 21).take 3 = leBytes 3 r.total := by
  simp [Record.queryBytes, leBytes]

/-- Settles O34, clause by clause. -/
theorem totalRemainingTime : Obligations.TotalRemainingTime := fun r =>
  ⟨⟨Record.total_waiting, Record.total_controlling, Record.total_ended⟩,
    by rw [Record.reminderDue_iff, Record.withinReminder_iff], r.queryBytes_total, fun _ _ => rfl⟩

end Sys2Proof.Machine
end


section
/-! PROOFS. PAUSE of a record (R11, R46, R53, R108, R152): O43. -/

namespace Sys2Proof.Machine

/-- A paused record does not burn. -/
theorem Record.givenLevel_pauseAt (r : Record) : r.pauseAt.givenLevel = 0 := Record.givenLevel_dark rfl

/-- The work of an accepted PAUSE. -/
theorem pauseBody_accepts {s : State} {p : Port} {bytes : List Byte} {r : Record} (h : s.Reaches p bytes r)
    (hrun : r.state = .running) :
    let t := (((s.takeCommand p).modify (field bytes 2 1) Record.pauseAt).follow r.station).dropElements
      (stationElements r.station) s.commandSlice
    pauseBody p bytes (s.takeCommand p) = .ok (t, t.stateByteOf (field bytes 2 1)) := by
  rw [pauseBody, withRecord_reaches h, allowed_reaches h false fun _ _ => rfl, inState, hrun, takeCommand_commandSlice,
    dropElements_follow]
  rfl

section

variable {s : State} {k st : Nat} {r : Record}

/-- The head of a station paused: the station gives no level, so no grace starts. -/
theorem pause_levelOf (hr : s.table.rec? k = some r) (hk : s.table.head st = k) :
    (s.modify k Record.pauseAt).table.levelOf st = 0 := by
  subst hk
  exact (Table.levelOf_modify_head hr Record.pauseAt).trans r.givenLevel_pauseAt

theorem pause_table (hr : s.table.rec? k = some r) (hk : s.table.head st = k) :
    ((s.modify k Record.pauseAt).follow st).table = s.table.put k (some r.pauseAt) := by
  rw [follow_table_steady fun h => h.2.1 (pause_levelOf hr hk), State.modify_table, Table.modify_eq_put hr]

end

/-- Settles O43: a paused head gives no level, and an electric station's elements are dropped. -/
theorem pauseStopsTheRecord : Obligations.PauseStopsTheRecord := by
  intro s p bytes r k hc htakes hreach hrun
  let u := s.takeCommand p
  let x := (u.modify k Record.pauseAt).follow r.station
  let t := x.dropElements (stationElements r.station) s.commandSlice
  have hrec : u.table.rec? k = some r := by simpa [u] using hreach.record
  have hhead : u.table.head r.station = k := by
    simpa [u] using hc.head_of_isHead hreach.record (by simp [Record.isHead, hrun])
  have htable : t.table = s.table.put k (some r.pauseAt) := (pause_table hrec hhead).trans (by rw [takeCommand_table])
  have happ : t.app = s.app.drop (stationElements r.station) s.commandSlice := by
    simp only [t, x, State.dropElements, State.withApp_app]
    rw [follow_eq]
    exact congrArg (fun a : Apportioner => a.drop _ _) (takeCommand_app s p)
  have hbyte : t.stateByteOf k
      = [byteOf (4 + 8 * flag r.keep + 16 * flag r.flameOut + 32 * flag r.detached)] := by
    rw [State.stateByteOf, htable, Table.rec?_put_same]
    · rfl
    · exact (Table.rec?_some_pos hreach.record).1
    · exact (Table.rec?_some_pos hreach.record).2
  have hann : t.ann = s.ann := (follow_ann _ _).trans (takeCommand_ann s p)
  have hframe : t = { u with table := t.table, burners := t.burners, app := t.app } := by
    simp only [t, x]; rw [follow_eq]; rfl
  have hexec : exec .pause s = .next (t.reply p { tag := tagOf bytes, code := .ok, data := t.stateByteOf k }) :=
    execute_accepts htakes (pauseBody_accepts hreach hrun) hann
  have hburner : ∀ f, (t.reply p { tag := tagOf bytes, code := .ok, data := t.stateByteOf k }).burner f = x.burner f :=
    fun f => reply_burner ..
  refine ⟨_, hexec, ?_, ?_, fun hg => ?_, fun f hf => ?_⟩
  · rw [hbyte, reply_burners, reply_app]
    conv_lhs => rw [hframe, htable]
    cases p <;> rfl
  · rw [reply_app, happ]
    exact Apportioner.drop_dropped _ _ _
  · rw [hburner]
    exact follow_dark hg (pause_levelOf hrec hhead)
  · rw [hburner, follow_burner_other _ hf]
    exact takeCommand_burner s p f

end Sys2Proof.Machine
end


section
/-! PROOFS. ADJUST of a record's time (R56, R57, R58, R153): O45. -/

namespace Sys2Proof.Machine

/-! ### The time and the reminder of the adjusted record (R56, R57, R58) -/

/-- The record has a reminder whose threshold its total time is above. -/
def Record.aboveReminder (r : Record) : Bool := r.reminder.any (fun n => decide (10 * n < r.total))

/-- Above its threshold a record's reminder is armed again; otherwise the mark stays. -/
theorem Record.rearm_eq (r : Record) : r.rearm = { r with reminderDone := r.reminderDone && !r.aboveReminder } := by
  rw [Record.rearm, Option.elim_false_eq_any, Record.aboveReminder]
  cases h : r.reminder.any (fun n => decide (10 * n < r.total)) <;> simp

/-- The record after an ADJUST to the time v (R56, R57, R58). -/
def Record.adjusted (v : Nat) (r : Record) : Record := ((r.setTime v).rearm).remind

/-- The mark of the reminder after an ADJUST to the time v, before the check of R56 (R57). -/
def Record.doneAfter (v : Nat) (r : Record) : Bool := (r.setTime v).reminderDone && !(r.setTime v).aboveReminder

theorem Record.setTime_state (v : Nat) (r : Record) : (r.setTime v).state = r.state := by
  cases hs : r.state <;> simp [Record.setTime, hs]

/-- A RUNNING record that comes within its threshold raises REMINDER. -/
theorem Record.adjusted_reminds {v : Nat} {r : Record}
    (h : r.state = .running ∧ r.doneAfter v = false ∧ (r.setTime v).withinReminder = true) :
    r.adjusted v = { r.setTime v with reminderDone := true, alerts := (r.setTime v).alerts ||| 32#6 } := by
  obtain ⟨hrun, hdone, hwithin⟩ := h
  rw [Record.adjusted, Record.rearm_eq, Record.remind_due]
  exact Record.reminderDue_iff.mpr ⟨(r.setTime_state v).trans hrun, hdone, hwithin⟩

/-- Any other record is left with the mark of R57. -/
theorem Record.adjusted_quiet {v : Nat} {r : Record}
    (h : ¬ (r.state = .running ∧ r.doneAfter v = false ∧ (r.setTime v).withinReminder = true)) :
    r.adjusted v = { r.setTime v with reminderDone := r.doneAfter v } := by
  rw [Record.adjusted, Record.rearm_eq, Record.remind_not_due]
  · rfl
  · refine fun hdue => h ?_
    obtain ⟨hrun, hdone, hwithin⟩ := Record.reminderDue_iff.mp hdue
    exact ⟨(r.setTime_state v).symm.trans hrun, hdone, hwithin⟩

/-- A set flag of REMINDER is no change when it is raised again. -/
theorem Record.alerts_of_reminder {r : Record} (h : r.hasAlert .reminder = true) : r.alerts ||| 32#6 = r.alerts := by
  have hbit : r.alerts.getLsbD 5 = true := h
  refine BitVec.eq_of_getLsbD_eq fun i hi => ?_
  rw [BitVec.getLsbD_or]
  interval_cases i <;> simp_all

/-! ### The flags of a table in which one record changes -/

theorem Table.pendingTable_put {t : Table} {k : Nat} {r q : Record} (hr : t.rec? k = some r) (h : q.alerts = r.alerts) :
    (t.put k (some q)).pendingTable = t.pendingTable := by
  have hself := Table.put_self hr
  have hk : k ≠ 0 := Nat.pos_iff_ne_zero.mp (Table.rec?_some_pos hr).1
  conv_rhs => rw [← hself]
  simp [Table.pendingTable, Table.put, hk, List.map_set, h]

/-! ### The command -/

/-- The state after an ADJUST to the time v, before the Alert Unit's part. -/
def State.adjust (s : State) (k v : Nat) : State := s.modify k (Record.adjusted v)

/-- A change of at most 86,399 s either way passes step 6 (R153). -/
theorem adjust_delta_inRange {delta : Int} (hlow : -86399 ≤ delta) (hhigh : delta ≤ 86399) :
    ¬ (delta < -(Config.maxSeconds : Int) ∨ (Config.maxSeconds : Int) < delta) := by
  simp only [Config.maxSeconds]; omega

/-- The work of an ADJUST on a record that still has a time. -/
theorem adjustBody_accepts {s : State} {p : Port} {bytes : List Byte} {r : Record} {v : Nat} (h : s.Reaches p bytes r)
    (hlow : -86399 ≤ signedField bytes 3) (hhigh : signedField bytes 3 ≤ 86399)
    (hgas : p = .remote → isGas r.station = true → r.adjustLengthens (signedField bytes 3) = false)
    (hv : r.adjustedTime = some v) :
    adjustBody p bytes (s.takeCommand p)
      = .ok (settleFrom (s.takeCommand p) ((s.takeCommand p).adjust (field bytes 2 1) (clampTime v (signedField bytes 3))),
          leBytes 3 (clampTime v (signedField bytes 3))) := by
  simp only [adjustBody, if_neg (adjust_delta_inRange hlow hhigh), withRecord_reaches h, allowed_reaches h _ hgas, hv]
  rfl

/-- An ENDED record has no time to change. -/
theorem adjustBody_ended {s : State} {p : Port} {bytes : List Byte} {r : Record} (h : s.Reaches p bytes r)
    (hlow : -86399 ≤ signedField bytes 3) (hhigh : signedField bytes 3 ≤ 86399)
    (hgas : p = .remote → isGas r.station = true → r.adjustLengthens (signedField bytes 3) = false)
    (hended : r.state = .ended) : adjustBody p bytes (s.takeCommand p) = .error .wrongState := by
  have hnone : r.adjustedTime = none := by simp only [Record.adjustedTime, hended]
  simp only [adjustBody, if_neg (adjust_delta_inRange hlow hhigh), withRecord_reaches h, allowed_reaches h _ hgas, hnone]

section

variable {s : State} {p : Port} {bytes data : List Byte} {r q : Record} {v : Nat}

/-- An accepted ADJUST writes the adjusted record; beside it the annunciator alone may change. -/
theorem execAdjust_writes (htakes : s.Takes p 0x14 bytes) (hr : s.table.rec? (field bytes 2 1) = some r)
    (hq : r.adjusted v = q)
    (hbody : adjustBody p bytes (s.takeCommand p)
      = .ok (settleFrom (s.takeCommand p) ((s.takeCommand p).adjust (field bytes 2 1) v), data)) :
    ∃ t, exec .adjust s = .next t
      ∧ t = { s.answered p bytes .ok data with table := s.table.put (field bytes 2 1) (some q), ann := t.ann }
      ∧ (q.alerts = r.alerts → t.ann = s.ann) := by
  obtain ⟨a, hexec, hann⟩ := execute_settles htakes hbody (takeCommand_ann s p)
  have htable : ((s.takeCommand p).adjust (field bytes 2 1) v).table = s.table.put (field bytes 2 1) (some q) := by
    rw [State.adjust, State.modify_table, takeCommand_table, Table.modify_eq_put hr, hq]
  refine ⟨_, hexec, ?_, fun halerts => hann.1 ?_⟩
  · rw [← htable]
    cases p <;> rfl
  · rw [settledReply_table, htable, Table.pendingTable_put hr halerts]

/-- The same where no flag changes: the annunciator stays. -/
theorem execAdjust_writes_quietly (htakes : s.Takes p 0x14 bytes) (hr : s.table.rec? (field bytes 2 1) = some r)
    (hq : r.adjusted v = q) (halerts : q.alerts = r.alerts)
    (hbody : adjustBody p bytes (s.takeCommand p)
      = .ok (settleFrom (s.takeCommand p) ((s.takeCommand p).adjust (field bytes 2 1) v), data)) :
    exec .adjust s = .next { s.answered p bytes .ok data with table := s.table.put (field bytes 2 1) (some q) } := by
  obtain ⟨t, hexec, ht, hann⟩ := execAdjust_writes htakes hr hq hbody
  rw [hexec, ht, hann halerts]
  cases p <;> rfl

end

/-- Settles O45, by the record's state: ended, controlling, waiting. -/
theorem adjustChangesTheTime : Obligations.AdjustChangesTheTime := by
  intro s p bytes r k delta clamp above within htakes hreach hlow hhigh hgas
  have hrec := hreach.record
  refine ⟨fun hended => execute_refuses htakes (adjustBody_ended hreach hlow hhigh hgas hended), fun hstate => ?_,
    fun g rest hstate hstages => ?_⟩
  · have htime : r.adjustedTime = some r.remaining := by
      rcases hstate with h | h | h <;> simp only [Record.adjustedTime, h]
    have hset : r.setTime (clamp r.remaining) = { r with remaining := clamp r.remaining } := by
      rcases hstate with h | h | h <;> simp only [Record.setTime, h]
    have hbody := adjustBody_accepts hreach hlow hhigh hgas htime
    intro moved done
    have hdone : r.doneAfter (clamp r.remaining) = done := by rw [Record.doneAfter, hset]; rfl
    have hwithin : (r.setTime (clamp r.remaining)).withinReminder = within moved := by rw [hset]; rfl
    refine ⟨fun h => ?_, fun h => ?_⟩
    · have hq : r.adjusted (clamp r.remaining) = { moved with reminderDone := true, alerts := r.alerts ||| 32#6 } := by
        rw [Record.adjusted_reminds (by rwa [hdone, hwithin]), hset]
      obtain ⟨t, hexec, ht, hann⟩ := execAdjust_writes htakes hrec hq hbody
      exact ⟨t, hexec, ht, fun hflag => hann (Record.alerts_of_reminder hflag)⟩
    · have hq : r.adjusted (clamp r.remaining) = { moved with reminderDone := done } := by
        rw [Record.adjusted_quiet (by rwa [hdone, hwithin]), hset, hdone]
      exact execAdjust_writes_quietly htakes hrec hq rfl hbody
  · have htime : r.adjustedTime = some g.duration := by
      rcases hstate with h | h <;> simp [Record.adjustedTime, h, Record.stageAt?, hstages]
    have hset : r.setTime (clamp g.duration) = { r with stages := { g with duration := clamp g.duration } :: rest } := by
      rcases hstate with h | h <;> simp [Record.setTime, h, hstages]
    have hidle : r.state ≠ .running := by rcases hstate with h | h <;> simp [h]
    have hq : r.adjusted (clamp g.duration) = { r with
        stages := { g with duration := clamp g.duration } :: rest
        reminderDone := r.doneAfter (clamp g.duration) } := by
      rw [Record.adjusted_quiet fun h => hidle h.1, hset]
    intro moved
    have hdone : r.doneAfter (clamp g.duration) = (r.reminderDone && !above moved) := by
      rw [Record.doneAfter, hset]; rfl
    rw [hdone] at hq
    exact execAdjust_writes_quietly htakes hrec hq rfl (adjustBody_accepts hreach hlow hhigh hgas htime)

end Sys2Proof.Machine
end



section
/-! SUPPORT. What a boundary counts of a record (R45 to R50, R54, R55), and the share of the boundary's work that counts it. -/

namespace Sys2Proof.Machine

/-! ### Standing and starvation (R46, R54, R55) -/

/-- The standing after one more slice boundary: a PARTIAL count has risen (R46). -/
def Standing.risen : Standing → Standing
  | .part n => .part (n + 1)
  | .whole => .whole
  | .void => .void

theorem Record.riseStanding_eq (r : Record) :
    r.riseStanding = if 6 ≤ r.station then { r with standing := r.standing.risen } else r := by
  have hgas : isGas r.station = true ↔ ¬ 6 ≤ r.station := by simp [isGas]
  cases hs : r.standing with
  | part n => simp only [Record.riseStanding, hs, hgas, Standing.risen, ite_not]
  | whole | void => simp only [Record.riseStanding, hs, Standing.risen]; rw [← hs]; exact (ite_self r).symm

/-- The starvation counter of a WHOLE record after a period of these figures (R54). -/
def Record.starveCount (f : Figures) (r : Record) : Nat :=
  if 0 < f.requested ∧ 2 * f.delivered < f.requested then min 60 (r.starve + 1) else 0

section

variable {limit : Nat} {f : Figures} {r : Record}

/-- A record of another standing keeps its counter. -/
theorem Record.countStarvation_other (h : r.standing ≠ .whole) : r.countStarvation limit f = r :=
  if_neg (by simpa using h)

theorem Record.countStarvation_whole (h : r.standing = .whole) :
    r.countStarvation limit f = if limit ≤ r.starveCount f ∧ r.starvedRaised = false then
      { r with starve := r.starveCount f, starvedRaised := true, alerts := r.alerts ||| 4#6 }
      else { r with starve := r.starveCount f } := by
  have hcount : (if f.starved then min 60 (r.starve + 1) else 0) = r.starveCount f :=
    if_congr (by simp [Figures.starved]) rfl rfl
  rw [Record.countStarvation, if_pos (by simpa using h), hcount]
  rfl

end

/-- Raising a kind sets its flag and keeps the others (R116). -/
theorem Record.hasAlert_raise (kind other : AlertKind) (r : Record) :
    (r.raise kind).hasAlert other = (r.hasAlert other || decide (other = kind)) := by
  simp only [Record.raise, Record.hasAlert, BitVec.getLsbD_or, AlertKind.mask_getLsbD]

/-- A starvation count raises no other kind than STARVED. -/
theorem Record.hasAlert_countStarvation {kind : AlertKind} (h : kind ≠ .starved) (limit : Nat) (f : Figures) (r : Record) :
    (r.countStarvation limit f).hasAlert kind = r.hasAlert kind := by
  by_cases hw : r.standing = .whole
  · rw [Record.countStarvation_whole hw]
    split
    · exact (Record.hasAlert_raise .starved kind r).trans (by simp [h])
    · rfl
  · rw [Record.countStarvation_other hw]

/-! ### The loss of time (R45, R48, R49) -/

section

variable {f : Figures} {r : Record} {g : Stage}

theorem Record.loseTime_wall (hg : r.stageAt? r.stage = some g) (hb : g.basis = .wall) (period : Bool) :
    r.loseTime period f = ({ r with remaining := r.remaining - 1 }, true) := by
  simp only [Record.loseTime, hg, Option.map_some, hb]

/-- Inside a period a COMPENSATED stage loses nothing. -/
theorem Record.loseTime_inside (hg : r.stageAt? r.stage = some g) (hb : g.basis = .compensated) :
    r.loseTime false f = (r, false) := by
  simp only [Record.loseTime, hg, Option.map_some, hb, Bool.false_eq_true, if_false]

/-- At a period boundary it takes its credit, if its standing gives one. -/
theorem Record.loseTime_credit (hg : r.stageAt? r.stage = some g) (hb : g.basis = .compensated) {c : Nat}
    (hc : creditOf f r.standing = some c) : r.loseTime true f = (r.applyCredit c, true) := by
  simp only [Record.loseTime, hg, Option.map_some, hb, hc, if_true]

theorem Record.loseTime_void (hg : r.stageAt? r.stage = some g) (hb : g.basis = .compensated) (hv : r.standing = .void) :
    r.loseTime true f = (r, false) := by
  simp only [Record.loseTime, hg, Option.map_some, hb, hv, creditOf, if_true]

end

/-- A loss of time raises no alert. -/
theorem Record.loseTime_alerts (period : Bool) (f : Figures) (r : Record) : (r.loseTime period f).1.alerts = r.alerts := by
  unfold Record.loseTime
  split
  · rfl
  · split
    · split <;> rfl
    · rfl
  · rfl

/-! ### The record before and after its loss of time (R50) -/

/-- Period figures are counted for an electric record at a period boundary. -/
def State.closesPeriodOf (s : State) (r : Record) : Bool := s.time.atPeriod && !isGas r.station

/-- Steps 1 and 2 of R50: the PARTIAL count has risen, and at a period boundary the starvation is counted. -/
def State.assessed (s : State) (r : Record) : Record :=
  if s.closesPeriodOf r then r.riseStanding.countStarvation (s.settings.value Config.starvationId) (s.app.figures r.station)
  else r.riseStanding

theorem counted_eq (s : State) (r : Record) :
    s.counted r = (s.assessed r).loseTime (s.closesPeriodOf r) (s.app.figures r.station) := rfl

theorem TimeBase.atPeriod_eq (t : TimeBase) : t.atPeriod = (decide (t.slice = 0) && decide (t.second = 0)) := by
  rw [Bool.eq_iff_iff]
  simp only [TimeBase.atPeriod, TimeBase.sliceNumber, beq_iff_eq, Bool.and_eq_true, decide_eq_true_eq]
  omega

theorem closesPeriodOf_iff {s : State} {r : Record} :
    s.closesPeriodOf r = true ↔ 6 ≤ r.station ∧ (decide (s.time.slice = 0) && decide (s.time.second = 0)) = true := by
  rw [State.closesPeriodOf, TimeBase.atPeriod_eq, Bool.and_eq_true, and_comm]
  refine and_congr_left fun _ => ?_
  simp [isGas]

/-- The figures of a station: those of the oven, or of the grill (R97). -/
theorem assessed_eq (s : State) (r : Record) :
    s.assessed r = if 6 ≤ r.station ∧ (decide (s.time.slice = 0) && decide (s.time.second = 0)) = true then
        (if 6 ≤ r.station then { r with standing := r.standing.risen } else r : Record).countStarvation
          (s.settings.value Config.starvationId) (if r.station = 6 then s.app.oven else s.app.grill)
      else if 6 ≤ r.station then { r with standing := r.standing.risen } else r := by
  rw [State.assessed, Record.riseStanding_eq]
  exact if_congr closesPeriodOf_iff rfl rfl

/-- What the first two steps leave of the record: all but its standing, its starvation counter and mark, and its flags. -/
theorem assessed_cases (s : State) (r : Record) :
    ∃ n b a, s.assessed r = { r.riseStanding with starve := n, starvedRaised := b, alerts := a } := by
  unfold State.assessed
  split
  · exact Record.countStarvation_cases _ _ _
  · exact ⟨_, _, _, rfl⟩

theorem assessed_sameCourse (s : State) (r : Record) : r.SameCourse (s.assessed r) := by
  obtain ⟨n, b, a, h⟩ := assessed_cases s r
  rw [h]
  exact (Record.sameCourse_riseStanding r).trans rfl

theorem assessed_time (s : State) (r : Record) :
    (s.assessed r).remaining = r.remaining ∧ (s.assessed r).acc = r.acc := by
  obtain ⟨n, b, a, h⟩ := assessed_cases s r
  rw [h, Record.riseStanding_eq]
  split <;> exact ⟨rfl, rfl⟩

theorem assessed_standing {s : State} {r : Record} (h : 6 ≤ r.station) : (s.assessed r).standing = r.standing.risen := by
  obtain ⟨n, b, a, he⟩ := assessed_cases s r
  rw [he, Record.riseStanding_eq, if_pos h]

theorem assessed_stageAt? {s : State} {r : Record} {g : Stage} (h : r.stageAt? r.stage = some g) :
    (s.assessed r).stageAt? (s.assessed r).stage = some g := by
  rw [assessed_sameCourse s r]; exact h

/-- The boundary's count raises no other kind than STARVED. -/
theorem counted_hasAlert {kind : AlertKind} (h : kind ≠ .starved) (s : State) (r : Record) :
    (s.counted r).1.hasAlert kind = r.hasAlert kind := by
  have hrise : r.riseStanding.hasAlert kind = r.hasAlert kind := by
    rw [Record.riseStanding_eq]; split <;> rfl
  have hassessed : (s.assessed r).hasAlert kind = r.hasAlert kind := by
    unfold State.assessed
    split
    · rw [Record.hasAlert_countStarvation h, hrise]
    · exact hrise
  rw [← hassessed, counted_eq]
  simp only [Record.hasAlert, Record.loseTime_alerts]

/-- The credit of a COMPENSATED stage at a period boundary, read before the boundary's rise of a PARTIAL count (R46, R48). -/
def Record.creditDue (f : Figures) (r : Record) : Nat :=
  match r.standing with
  | .void => 0
  | .part n => 1000 * (n + 1)
  | .whole => if f.requested = 0 then 100000 else 100000 * f.delivered / f.requested

theorem creditOf_risen {f : Figures} {r : Record} (h : r.standing ≠ .void) :
    creditOf f r.standing.risen = some (r.creditDue f) := by
  cases hs : r.standing with
  | void => exact absurd hs h
  | part n => simp only [Standing.risen, creditOf, Record.creditDue, hs]
  | whole => simp only [Standing.risen, creditOf, Record.creditDue, hs]

section

variable {s : State} {r : Record} {g : Stage}

theorem counted_of_wall (hg : r.stageAt? r.stage = some g) (hb : g.basis = .wall) :
    s.counted r = ({ s.assessed r with remaining := r.remaining - 1 }, true) := by
  rw [counted_eq, Record.loseTime_wall (assessed_stageAt? hg) hb, (assessed_time s r).1]

/-- A COMPENSATED stage loses nothing inside a period, on a gas station, or while VOID. -/
theorem counted_of_compensated (hg : r.stageAt? r.stage = some g) (hb : g.basis = .compensated)
    (h : s.closesPeriodOf r = false ∨ r.standing = .void) : s.counted r = (s.assessed r, false) := by
  rw [counted_eq]
  cases hp : s.closesPeriodOf r with
  | false => exact Record.loseTime_inside (assessed_stageAt? hg) hb
  | true =>
    have hvoid : r.standing = .void := h.resolve_left (by simp [hp])
    refine Record.loseTime_void (assessed_stageAt? hg) hb ?_
    rw [assessed_standing (closesPeriodOf_iff.mp hp).1, hvoid, Standing.risen]

/-- At a period boundary the credit goes through the accumulator (R49). -/
theorem counted_of_credit (hg : r.stageAt? r.stage = some g) (hb : g.basis = .compensated) (hp : s.closesPeriodOf r = true)
    (hv : r.standing ≠ .void) : s.counted r = ({ s.assessed r with
      acc := (r.acc + r.creditDue (s.app.figures r.station)) % 1000
      remaining := r.remaining - (r.acc + r.creditDue (s.app.figures r.station)) / 1000 }, true) := by
  have hcredit : creditOf (s.app.figures r.station) (s.assessed r).standing
      = some (r.creditDue (s.app.figures r.station)) := by
    rw [assessed_standing (closesPeriodOf_iff.mp hp).1, creditOf_risen hv]
  obtain ⟨hrem, hacc⟩ := assessed_time s r
  rw [counted_eq, hp, Record.loseTime_credit (assessed_stageAt? hg) hb hcredit, Record.applyCredit, hrem, hacc]

end

/-! ### The share of the boundary's work (R50, R84, R121) -/

/-- The state with one share of a boundary's work off the list. -/
def State.without (s : State) (w : Work) : State := s.withTodo (s.todo.filter (fun v => v != w))

theorem without_awaits (s : State) (v w : Work) : (s.without w).awaits v = (s.awaits v && v != w) := by
  rw [Bool.eq_iff_iff, Bool.and_eq_true, awaits_iff, awaits_iff]
  exact List.mem_filter

/-- A countdown's share does not decide from which slice a drop acts. -/
theorem without_boundarySlice (s : State) (k : Nat) : (s.without (.count k)).boundarySlice = s.boundarySlice := by
  have hopen : (s.without (.count k)).awaits .openPeriod = s.awaits .openPeriod := by
    rw [without_awaits]; exact Bool.and_true _
  rw [State.boundarySlice, State.boundarySlice, hopen]
  rfl

/-- The count of a record taken by its share, the period being closed. -/
theorem take_count_eq {s : State} {k : Nat} (h : s.awaits (.count k) = true) (hc : s.awaits .closePeriod = false) :
    s.take (.count k) = (s.without (.count k)).countRecord k :=
  (take_count h hc).trans (takeOne_awaited h)

theorem nextStage_frame {s : State} {k : Nat} {r : Record} (hr : s.table.rec? k = some r) (j : Nat) :
    s.nextStage k r j = { s with
      table := (s.nextStage k r j).table, burners := (s.nextStage k r j).burners
      app := s.app.drop (s.leaving (s.nextStage k r j) r.station) j } := by
  rw [nextStage_eq hr, follow_eq]
  rfl

/-- The end of a stage touches no context. -/
theorem endStage_ann (s : State) (k j : Nat) : (s.endStage k j).ann = s.ann := by
  unfold State.endStage
  split
  · rfl
  · next r hr =>
    split
    · rw [nextStage_frame hr]
    · rw [endRecord_frame hr]

/-- The state with the counted record written and, where its stage has run out, the stage ended, before the reminder. -/
def State.countWritten (s : State) (k : Nat) (r : Record) : State :=
  let w := s.withTable (s.table.put k (some (s.counted r).1))
  if (s.counted r).2 && (s.counted r).1.remaining == 0 then w.leaveStarted (w.endStage k s.boundarySlice) else w

theorem countWritten_ann (s : State) (k : Nat) (r : Record) : (s.countWritten k r).ann = s.ann := by
  unfold State.countWritten
  dsimp only
  split
  · exact endStage_ann _ _ _
  · rfl

section

variable {s : State} {k : Nat} {r : Record}

theorem countRecord_running (hr : s.table.rec? k = some r) (hrun : r.state = .running) :
    s.countRecord k = settleFrom s
      (if (s.counted r).2 then (s.countWritten k r).modify k Record.remind else s.countWritten k r) := by
  simp only [State.countRecord, hr, hrun, beq_self_eq_true, if_true]
  rfl

theorem countRecord_not_running (hr : s.table.rec? k = some r) (hrun : r.state ≠ .running) : s.countRecord k = s := by
  simp only [State.countRecord, hr]
  exact if_neg (by simpa using hrun)

/-- The countdown of a stage that runs out: the stage ends, and the reminder of what the record has become is checked. -/
theorem countRecord_runs_out (hr : s.table.rec? k = some r) (hrun : r.state = .running) (htaken : (s.counted r).2 = true)
    (h0 : (s.counted r).1.remaining = 0) :
    let w := s.withTable (s.table.put k (some (s.counted r).1))
    s.countRecord k = settleFrom s ((w.leaveStarted (w.endStage k s.boundarySlice)).modify k Record.remind) := by
  simp only [countRecord_running hr hrun, State.countWritten, htaken, h0, beq_self_eq_true, Bool.and_self, if_true]

/-- The countdown of a stage that does not: the counted record is written, its reminder checked where time was taken. -/
theorem countRecord_counts (hr : s.table.rec? k = some r) (hrun : r.state = .running)
    (h : (s.counted r).2 = true → (s.counted r).1.remaining ≠ 0) :
    s.countRecord k = settleFrom s (s.withTable (s.table.put k
      (some (if (s.counted r).2 then (s.counted r).1.remind else (s.counted r).1)))) := by
  have hstays : ((s.counted r).2 && (s.counted r).1.remaining == 0) = false := by
    cases htaken : (s.counted r).2 with
    | false => rfl
    | true => simpa using h htaken
  have hwritten : s.countWritten k r = s.modify k (fun _ => (s.counted r).1) := by
    rw [State.countWritten, hstays, State.modify, Table.modify_eq_put hr]; rfl
  rw [countRecord_running hr hrun, hwritten, State.modify_modify, State.modify, State.modify, Table.modify_eq_put hr,
    Table.modify_eq_put hr]
  cases (s.counted r).2 <;> rfl

end

theorem State.AnnTaken.refl (s : State) : s.AnnTaken s := ⟨fun _ => rfl, fun h => absurd rfl h⟩

/-- The Alert Unit takes a countdown as one event (R121). -/
theorem countRecord_annTaken (s : State) (k : Nat) : s.AnnTaken (s.countRecord k) := by
  cases hr : s.table.rec? k with
  | none =>
    have : s.countRecord k = s := by simp only [State.countRecord, hr]
    rw [this]
    exact .refl s
  | some r =>
    by_cases hrun : r.state = .running
    · rw [countRecord_running hr hrun]
      refine settleFrom_annTaken ?_
      split <;> exact countWritten_ann s k r
    · rw [countRecord_not_running hr hrun]
      exact .refl s

/-- A countdown sets out no other. -/
theorem countRecord_awaits_count {s : State} {j k : Nat} (h : (s.countRecord k).awaits (.count j) = true) :
    s.awaits (.count j) = true := by
  rcases countRecord_cases s k with ⟨-, htodo⟩ | ⟨r, p, before, after, -, -, -, hafter, -, -, htodo⟩
  · rwa [awaits_iff, htodo, ← awaits_iff] at h
  · rw [awaits_iff, htodo, ← awaits_iff] at h
    have hstill := leaveStarted_awaits_count h
    rwa [awaits_iff, hafter, endStage_todo, ← awaits_iff] at hstill

/-- What every countdown's share keeps: the blocks of the hosts, the Alert Unit's single event, and itself off the list. -/
theorem count_share_frame (s : State) (k : Nat) :
    let t := (s.without (.count k)).countRecord k
    t.awaits (.count k) = false ∧ t = s.onRecords t ∧ s.AnnTaken t := by
  intro t
  refine ⟨Bool.eq_false_iff.mpr fun h => ?_, ?_, State.AnnTaken.of_todo (countRecord_annTaken (s.without (.count k)) k)⟩
  · have := countRecord_awaits_count h
    simp [without_awaits] at this
  · exact ((withTodo_sameHost s _).trans (countRecord_sameHost (s.without (.count k)) k)).eq_onRecords

end Sys2Proof.Machine
end



section
/-! PROOFS. A boundary's count of a record that does not end a stage (R45, R46, R48 to R50, R56): O32. -/

namespace Sys2Proof.Machine

/-- The check of the reminder of a RUNNING record, written out (R56). -/
theorem Record.remind_running {q : Record} (h : q.state = .running) :
    q.remind = if q.reminderDone = false ∧ q.reminder.any (fun n => decide (q.total ≤ 10 * n)) = true
      then { q with reminderDone := true, alerts := q.alerts ||| 32#6 } else q :=
  if_congr (Record.reminderDue_iff.trans (and_iff_right h)) rfl rfl

section

variable {s : State} {k : Nat} {r q : Record}

/-- A change of one record that the Alert Unit takes as an event: what it leaves alone. -/
theorem settled_put_alone (hr : s.table.rec? k = some r) {t : State}
    (ht : t = settleFrom s (s.withTable (s.table.put k (some q)))) :
    t.table.rec? k = some q ∧ t.table.heads = s.table.heads ∧ t.table.queues = s.table.queues
      ∧ (∀ j, j ≠ k → t.table.rec? j = s.table.rec? j) ∧ t = { s with table := t.table, ann := t.ann } ∧ s.AnnTaken t := by
  obtain ⟨hpos, hlen⟩ := Table.rec?_some_pos hr
  have hframe := settleFrom_eq s (s.withTable (s.table.put k (some q)))
  rw [← ht] at hframe
  have htable : t.table = s.table.put k (some q) := by rw [hframe]; rfl
  refine ⟨?_, ?_, ?_, fun j hj => ?_, ?_, ?_⟩
  · rw [htable, Table.rec?_put_same _ _ hpos hlen]
  · rw [htable, Table.put_heads]
  · rw [htable, Table.put_queues]
  · rw [htable, Table.rec?_put_other _ _ hj]
  · rw [hframe]; rfl
  · rw [ht]; exact settleFrom_annTaken rfl

/-- Where the boundary takes time and leaves some, the record is written with its reminder checked (R56). -/
theorem countRecord_takes (hr : s.table.rec? k = some r) (hrun : r.state = .running) (hq : s.counted r = (q, true))
    (hleft : q.remaining ≠ 0) : s.countRecord k = settleFrom s (s.withTable (s.table.put k (some
      (if q.reminderDone = false ∧ q.reminder.any (fun n => decide (q.total ≤ 10 * n)) = true
        then { q with reminderDone := true, alerts := q.alerts ||| 32#6 } else q)))) := by
  have h := countRecord_counts hr hrun fun _ => by rw [hq]; exact hleft
  have hcourse : r.SameCourse q := by
    have := (counted_cases s r).1
    rwa [hq] at this
  have hqrun : q.state = .running := by rw [hcourse]; exact hrun
  rw [← Record.remind_running hqrun]
  rwa [hq] at h

/-- Where it takes none, the record is written as assessed. -/
theorem countRecord_spares (hr : s.table.rec? k = some r) (hrun : r.state = .running) (hq : s.counted r = (q, false)) :
    s.countRecord k = settleFrom s (s.withTable (s.table.put k (some q))) := by
  have h := countRecord_counts hr hrun fun h => by rw [hq] at h; exact absurd h Bool.false_ne_true
  rwa [hq] at h

end

/-- Settles O32, by the basis of the stage and the credit of the period. -/
theorem wallStageCounts : Obligations.WallStageCounts := by
  intro s k r hr
  refine ⟨rfl, countRecord_not_running hr, fun g hrun hg => ?_⟩
  intro t period f risen judged credit reminded alone
  have hjudged : judged = s.assessed r := (assessed_eq s r).symm
  have hcloses : s.closesPeriodOf r = true ↔ 6 ≤ r.station ∧ period = true := closesPeriodOf_iff
  refine ⟨fun hb hmore => ?_, fun hb hspare => ?_, fun hb hst hperiod hv hmore => ?_⟩
  · have hq : s.counted r = ({ judged with remaining := r.remaining - 1 }, true) := by
      rw [counted_of_wall hg hb, hjudged]
    exact settled_put_alone hr (countRecord_takes hr hrun hq (Nat.sub_ne_zero_of_lt hmore))
  · have hnone : s.closesPeriodOf r = false ∨ r.standing = .void :=
      hspare.imp_left fun h => Bool.eq_false_iff.mpr (mt hcloses.mp h)
    have hq : s.counted r = (judged, false) := by rw [counted_of_compensated hg hb hnone, hjudged]
    exact settled_put_alone hr (countRecord_spares hr hrun hq)
  · have hcredit : r.creditDue (s.app.figures r.station) = credit := rfl
    have hq : s.counted r = ({ judged with
        acc := (r.acc + credit) % 1000, remaining := r.remaining - (r.acc + credit) / 1000 }, true) := by
      rw [counted_of_credit hg hb (hcloses.mpr ⟨hst, hperiod⟩) hv, hcredit, hjudged]
    exact settled_put_alone hr (countRecord_takes hr hrun hq (by dsimp only; omega))

end Sys2Proof.Machine
end



section
/-! SUPPORT. The end of a stage that is not the last (R43, R51, R106, R107), as its share of a boundary takes it. -/

namespace Sys2Proof.Machine

/-! ### The record in its next stage (R43, R51) -/

/-- The next stage begun, and no flag but STAGE_END touched. -/
theorem Record.advance_eq (r : Record) :
    r.advance = { r.beginStage (r.stage + 1) with alerts := r.advance.alerts } := by
  unfold Record.advance
  dsimp only
  split <;> rfl

theorem Record.advance_hasAlert (r : Record) : r.advance.hasAlert .stageEnd = (r.hasAlert .stageEnd || r.keeps) := by
  have hbegun : (r.beginStage (r.stage + 1)).hasAlert .stageEnd = r.hasAlert .stageEnd := rfl
  have hadvance : r.advance = if r.keeps then (r.beginStage (r.stage + 1)).raise .stageEnd else r.beginStage (r.stage + 1) := rfl
  rw [hadvance]
  cases r.keeps with
  | true => rw [if_pos rfl, Record.hasAlert_raise, hbegun]; rfl
  | false => rw [if_neg Bool.false_ne_true, hbegun, Bool.or_false]

theorem Record.givenLevel_advance {r : Record} {g : Stage} (hrun : r.state = .running)
    (hg : r.stageAt? (r.stage + 1) = some g) : r.advance.givenLevel = g.level := by
  rw [r.advance_eq]
  refine Record.givenLevel_lit (Record.lit_iff.mpr (.inl hrun)) ?_
  simp only [Record.shownStage?, Record.shownIndex, Record.beginStage, hrun]
  exact hg

/-! ### The end of the stage, read by the state before it -/

section

variable {s t : State} {k : Nat} {r : Record}

/-- The record of a stage's end, from a record that advanced and may have been given a grace. -/
theorem State.StageEnded.of_advance (hrun : r.state = .running) {q : Record} (hread : t.table.rec? k = some q)
    (hq : q = r.advance ∨ q = r.advance.startGrace s.settings)
    (hstations : t.table.heads = s.table.heads ∧ t.table.queues = s.table.queues)
    (hother : ∀ j, j ≠ k → t.table.rec? j = s.table.rec? j)
    (hlevel : isGas r.station = true → (t.burner r.station).level = r.advance.givenLevel) : s.StageEnded t k r := by
  refine ⟨⟨q, hread, ?_⟩, hstations, hother, fun hgas g hg => (hlevel hgas).trans (Record.givenLevel_advance hrun hg)⟩
  have hflag : q.hasAlert .stageEnd = (r.hasAlert .stageEnd || r.keeps) := by
    rw [← r.advance_hasAlert]
    rcases hq with rfl | rfl <;> rfl
  have hstanding : isGas r.station = false → (r.beginStage (r.stage + 1)).standing = .part 0 := fun hgas => by
    simp [Record.beginStage, hgas]
  have heq := r.advance_eq
  rcases hq with rfl | rfl
  · rw [heq] at hflag ⊢
    exact ⟨hrun, rfl, rfl, rfl, rfl, rfl, hstanding, rfl, rfl, rfl, hflag⟩
  · rw [heq] at hflag ⊢
    exact ⟨hrun, rfl, rfl, rfl, rfl, rfl, hstanding, rfl, rfl, rfl, hflag⟩

theorem nextStage_stageEnded (hl : s.LevelsFollow) (hr : s.table.rec? k = some r) (hhead : s.table.head r.station = k)
    (hrun : r.state = .running) (j : Nat) : s.StageEnded (s.nextStage k r j) k r := by
  let x := (s.modify k Record.advance).follow r.station
  have htable : (s.nextStage k r j).table = x.table := by rw [nextStage_eq hr]; rfl
  have hburner : ∀ f, (s.nextStage k r j).burner f = x.burner f := fun f => by rw [nextStage_eq hr]; rfl
  have hshape : x.table.heads = s.table.heads ∧ x.table.queues = s.table.queues := by
    obtain ⟨g, hm, -⟩ := follow_mapped (s.modify k Record.advance) r.station
    exact ⟨hm.heads.trans (Table.modify_heads ..), hm.queues.trans (Table.modify_queues ..)⟩
  refine .of_advance hrun ((congrArg (Table.rec? · k) htable).trans (rec?_modify_follow_head hl hr hhead Record.advance))
    ?_ (by rw [htable]; exact hshape) (fun i hi => by rw [htable]; exact rec?_modify_follow_other hl hi _ _) fun hgas => ?_
  · split
    · exact .inr rfl
    · exact .inl rfl
  · have hb : r.station < s.burners.length := by
      rw [hl.six]; simpa [isGas] using hgas
    rw [hburner]
    exact level_modify_follow_head hr hhead hgas hb Record.advance

/-- The reminder of the record in its new stage touches nothing that a stage's end speaks of. -/
theorem State.StageEnded.remind (h : s.StageEnded t k r) : s.StageEnded (t.modify k Record.remind) k r := by
  obtain ⟨⟨q, hq, hfields⟩, ⟨hheads, hqueues⟩, hother, hlevel⟩ := h
  refine ⟨⟨q.remind, by rw [State.rec?_modify, if_pos rfl, hq]; rfl, ?_⟩,
    ⟨(Table.modify_heads ..).trans hheads, (Table.modify_queues ..).trans hqueues⟩,
    fun j hj => by rw [State.rec?_modify, if_neg hj, hother j hj], hlevel⟩
  rcases q.remind_cases with h | h
  · rw [h]; exact hfields
  · rw [h]
    obtain ⟨h1, h2, h3, h4, h5, h6, h7, h8, h9, h10, h11⟩ := hfields
    exact ⟨h1, h2, h3, h4, h5, h6, h7, h8, h9, h10, (Record.hasAlert_raise .reminder .stageEnd q).trans (by simpa using h11)⟩

/-- The end of a stage is read the same by a state in which the record differed by its countdown alone. -/
theorem State.StageEnded.of_counted {w t' : State} {p : Record} (h : w.StageEnded t k p) (hcourse : r.SameCourse p)
    (hflag : p.hasAlert .stageEnd = r.hasAlert .stageEnd) (hw : w.table = s.table.put k (some p)) (ht : t'.table = t.table)
    (htb : t'.burners = t.burners) : s.StageEnded t' k r := by
  obtain ⟨⟨q, hq, hfields⟩, ⟨hheads, hqueues⟩, hother, hlevel⟩ := h
  refine ⟨⟨q, by rw [ht, hq], ?_⟩, ⟨?_, ?_⟩, fun j hj => ?_, fun hgas g hg => ?_⟩
  · rw [hflag, hcourse] at hfields
    exact hfields
  · rw [ht, hheads, hw, Table.put_heads]
  · rw [ht, hqueues, hw, Table.put_queues]
  · rw [ht, hother j hj, hw, Table.rec?_put_other _ _ hj]
  · rw [hcourse] at hlevel
    rw [State.burner_congr htb]
    exact hlevel hgas g hg

/-- A reminder leaves a station's elements as they are. -/
theorem elements_modify_remind (t : Table) (k st : Nat) : (t.modify k Record.remind).elements st = t.elements st := by
  refine (Table.modify_mapped t k Record.remind).elements fun q _ => ?_
  split
  · refine ⟨q.alike_remind.isHead, ?_⟩
    rcases q.remind_cases with h | h <;> rw [h]
    rfl
  · exact ⟨rfl, rfl⟩

end

/-! ### The share of the boundary that ends a stage -/

section

variable {s : State} {k : Nat} {r : Record}

/-- The countdown that ends a stage begins the next, and drops the elements that leave the set. -/
theorem countRecord_stageEnded (hc : s.table.Consistent) (hl : s.LevelsFollow) (hr : s.table.rec? k = some r)
    (hrun : r.state = .running) (hnext : r.stage < r.stages.length) (htaken : (s.counted r).2 = true)
    (h0 : (s.counted r).1.remaining = 0) :
    s.StageEnded (s.countRecord k) k r
      ∧ (s.countRecord k).app = s.app.drop (s.leaving (s.countRecord k) r.station) s.boundarySlice := by
  obtain ⟨hcourse, -, -⟩ := counted_cases s r
  have hflag := counted_hasAlert (kind := .stageEnd) (by decide) s r
  have hrecord := countRecord_runs_out hr hrun htaken h0
  generalize (s.counted r).1 = p at hcourse hflag hrecord
  let w := s.withTable (s.table.put k (some p))
  let x := w.nextStage k p s.boundarySlice
  have hput : w = s.modify k (fun _ => p) := congrArg s.withTable (Table.modify_eq_put hr (fun _ => p)).symm
  have hp : w.table.rec? k = some p := by rw [hput, State.rec?_modify, if_pos rfl, hr]; rfl
  have hst : p.station = r.station := by rw [hcourse]
  have hhead : w.table.head p.station = k := by
    rw [hst]
    exact (Table.head_put ..).trans (hc.head_of_isHead hr (by simp [Record.isHead, hrun]))
  have hwl : w.LevelsFollow := by rw [hput]; exact hl.modify hr hcourse.givenLevel
  have hend : w.endStage k s.boundarySlice = x := by
    have hpnext : p.hasNextStage = true := by rw [hcourse]; simpa [Record.hasNextStage] using hnext
    simp only [State.endStage, hp, hpnext, if_true, x]
  have hstage : w.StageEnded x k p := nextStage_stageEnded hwl hp hhead (by rw [hcourse]; exact hrun) _
  let y := (w.leaveStarted x).modify k Record.remind
  have ht : s.countRecord k = { y with ann := (settleFrom s y).ann } := by
    rw [hrecord, hend]; exact settleFrom_eq s y
  have htable : (s.countRecord k).table = x.table.modify k Record.remind := by rw [ht]; rfl
  have hburners : (s.countRecord k).burners = x.burners := by rw [ht]; rfl
  refine ⟨(hstage.remind).of_counted hcourse hflag rfl htable hburners, ?_⟩
  have hleaving : s.leaving (s.countRecord k) r.station = w.leaving x p.station := by
    rw [State.leaving, State.leaving, htable, elements_modify_remind, hst]
    exact congrArg (List.filter _) (put_elements hr hcourse r.station).symm
  have hx : x.app = s.app.drop (w.leaving x p.station) s.boundarySlice := by
    simp only [x]
    rw [nextStage_frame hp]
    rfl
  rw [hleaving, ← hx, ht]
  rfl

/-- The countdown that ends the last stage ends the record. -/
theorem countRecord_recordEnded (hc : s.table.Consistent) (hl : s.LevelsFollow) (hr : s.table.rec? k = some r)
    (hrun : r.state = .running) (hlast : r.stage = r.stages.length) (htaken : (s.counted r).2 = true)
    (h0 : (s.counted r).1.remaining = 0) :
    (∃ q, (s.countRecord k).table.rec? k = some q ∧ q.state = .ended ∧ q.remaining = 0 ∧ q.hasAlert .recordEnd = true)
      ∧ (s.countRecord k).app = s.app.drop (s.leaving (s.countRecord k) r.station) s.boundarySlice
      ∧ ((∀ j q, s.table.rec? j = some q → q.waitsOn k = false) → s.RecordEnded (s.countRecord k) k r) := by
  obtain ⟨x, before, hx, hends⟩ := countRecord_ends hc hl hr hrun hlast htaken h0
  have ht : s.countRecord k = { before.leaveStarted x with ann := (s.countRecord k).ann } := by
    rw [hx]; exact settleFrom_eq s _
  have htable : (s.countRecord k).table = x.table := by rw [ht]; rfl
  have hburners : (s.countRecord k).burners = x.burners := by rw [ht]; rfl
  have happ : (s.countRecord k).app = x.app := by rw [ht]; rfl
  obtain ⟨q, hq, hended, hzero, halert, -⟩ := hends.ended
  refine ⟨⟨q, by rw [htable, hq], hended, hzero, halert⟩, ?_, fun hno => (hends.alone hno).congr rfl rfl rfl htable hburners⟩
  rw [happ, hends.app, State.leaving, State.leaving, htable]

/-- STAGE_END and RECORD_END take the share of a record whose stage runs out there. -/
theorem stageRunsOut_share {b : Bool} (hcount : s.awaits (.count k) = true) (hclose : s.awaits .closePeriod = false)
    (hr : s.table.rec? k = some r) (hrun : r.state = .running) (hb : r.hasNextStage = b) (htaken : (s.counted r).2 = true)
    (h0 : (s.counted r).1.remaining = 0) :
    (if s.stageRunsOut k b then s.take (.count k) else s) = (s.without (.count k)).countRecord k := by
  have hready : s.readyToCount k = s := by rw [State.readyToCount, takeOne_absent hclose, ite_self]
  have hruns : s.stageRunsOut k b = true := by
    simp [State.stageRunsOut, hcount, hready, hr, State.runsOut, hrun, htaken, h0, hb]
  rw [if_pos hruns, take_count_eq hcount hclose]

/-- STAGE_END of a stage whose time runs out at this boundary. -/
theorem exec_stageEnd_ends (hc : s.table.Consistent) (hl : s.LevelsFollow) (hcount : s.awaits (.count k) = true)
    (hclose : s.awaits .closePeriod = false) (hr : s.table.rec? k = some r) (hrun : r.state = .running)
    (hnext : r.stage < r.stages.length) (htaken : (s.counted r).2 = true) (h0 : (s.counted r).1.remaining = 0) :
    ∃ t, exec (.stageEnd k) s = .next t ∧ s.StageEnded t k r ∧ t.awaits (.count k) = false ∧ t = s.onRecords t
      ∧ s.app.Dropped t.app (s.leaving t r.station) s.boundarySlice ∧ s.AnnTaken t := by
  obtain ⟨hdone, hframe, hann⟩ := count_share_frame s k
  obtain ⟨hended, happ⟩ := countRecord_stageEnded (s := s.without (.count k)) hc (hl.of_eq rfl rfl) hr hrun hnext htaken h0
  obtain ⟨hrecord, hstations, hother, hlevel⟩ := hended
  refine ⟨_, congrArg Host.Outcome.next (stageRunsOut_share hcount hclose hr hrun (decide_eq_true hnext) htaken h0),
    ⟨hrecord, hstations, hother, hlevel⟩, hdone, hframe, ?_, hann⟩
  rw [happ, without_boundarySlice]
  exact Apportioner.drop_dropped _ _ _

/-- RECORD_END of a record whose last stage runs out at this boundary. -/
theorem exec_recordEnd_ends (hc : s.table.Consistent) (hl : s.LevelsFollow) (hcount : s.awaits (.count k) = true)
    (hclose : s.awaits .closePeriod = false) (hr : s.table.rec? k = some r) (hrun : r.state = .running)
    (hlast : r.stage = r.stages.length) (htaken : (s.counted r).2 = true) (h0 : (s.counted r).1.remaining = 0) :
    ∃ t, exec (.recordEnd k) s = .next t ∧ t.awaits (.count k) = false ∧ t = s.onRecords t
      ∧ (∃ q, t.table.rec? k = some q ∧ q.state = .ended ∧ q.remaining = 0 ∧ q.hasAlert .recordEnd = true)
      ∧ s.app.Dropped t.app (s.leaving t r.station) s.boundarySlice
      ∧ ((∀ j q, s.table.rec? j = some q → q.waitsOn k = false) → s.RecordEnded t k r) := by
  obtain ⟨hdone, hframe, -⟩ := count_share_frame s k
  obtain ⟨hrecord, happ, halone⟩ :=
    countRecord_recordEnded (s := s.without (.count k)) hc (hl.of_eq rfl rfl) hr hrun hlast htaken h0
  have hnext : r.hasNextStage = false := by simp [Record.hasNextStage, hlast]
  refine ⟨_, congrArg Host.Outcome.next (stageRunsOut_share hcount hclose hr hrun hnext htaken h0), hdone, hframe, hrecord, ?_,
    fun hno => (halone hno).congr rfl rfl rfl rfl rfl⟩
  rw [happ, without_boundarySlice]
  exact Apportioner.drop_dropped _ _ _

end

end Sys2Proof.Machine
end


section
/-! PROOFS. The end of a WALL stage, and what a period's figures do to a record (R43, R45 to R49, R51, R52, R54, R55, R97, R105): O26,
O33. -/

namespace Sys2Proof.Machine

/-- Settles O26: the last decisecond of a WALL stage is taken at every boundary. -/
theorem wallStageEnds : Obligations.WallStageEnds := by
  intro s k r g hc hl hcount hclose hr hrun hg hwall hone hnext
  obtain ⟨htaken, hrem⟩ := counted_wall (s := s) hg hwall
  exact exec_stageEnd_ends hc hl hcount hclose hr hrun hnext htaken (by rw [hrem, hone])

/-! ### The closing of a period (R97, R105) -/

/-- A slice that has ended is counted for the elements that were on in it (R105). -/
theorem Apportioner.element_deliver (a : Apportioner) (j e : Nat) : (a.deliver j).element e
    = { a.element e with delivered := (a.element e).delivered + if (a.element e).onIn j then 1 else 0 } := by
  rw [Apportioner.deliver, Apportioner.element_mapElements a (if_neg (by simp [Element.onIn, Element.idle]))]
  cases (a.element e).onIn j <;> rfl

/-- The figures of a closed period are formed after slice 99 has been counted (R97). -/
theorem Apportioner.close_eq (a : Apportioner) : a.close = { a with
    elements := (a.deliver 99).elements, oven := (a.deliver 99).figuresOf [0, 1, 2], grill := (a.deliver 99).figuresOf [3, 4] } := rfl

theorem Apportioner.element_close (a : Apportioner) (e : Nat) : a.close.element e
    = { a.element e with delivered := (a.element e).delivered + if (a.element e).onIn 99 then 1 else 0 } :=
  a.element_deliver 99 e

/-- Settles O33: the closing, the credit by standing, the starvation counter, and the ends of a COMPENSATED stage. -/
theorem periodFiguresReachTheRecord : Obligations.PeriodFiguresReachTheRecord := by
  refine ⟨fun a _ => ?_, fun f r g hg hb => ?_, fun limit f r => ?_, fun s k r g hc hl hcount hclose hslice hsecond hr hrun hst hg hb => ?_⟩
  · refine ⟨?_, ?_, fun e _ => a.element_close e, rfl, fun s hs => by rw [← hs]; rfl⟩
    · simp [Apportioner.close_eq, Apportioner.figuresOf, Apportioner.element_deliver, Nat.add_assoc]
    · simp [Apportioner.close_eq, Apportioner.figuresOf, Apportioner.element_deliver]
  · refine ⟨Record.loseTime_void hg hb, fun n hs => ?_, fun hs h0 => ?_, fun hs hpos => ?_, Record.loseTime_inside hg hb⟩
    · exact Record.loseTime_credit hg hb (by rw [hs, creditOf])
    · exact Record.loseTime_credit hg hb (by rw [hs, creditOf, if_pos h0])
    · exact Record.loseTime_credit hg hb (by rw [hs, creditOf, if_neg (Nat.pos_iff_ne_zero.mp hpos)])
  · refine ⟨Record.countStarvation_other, fun hs => ⟨fun hlim hclear => ?_, fun hnot => ?_⟩⟩
    · rw [Record.countStarvation_whole hs]
      exact if_pos ⟨hlim, hclear⟩
    · rw [Record.countStarvation_whole hs]
      refine if_neg fun ⟨hlim, hclear⟩ => ?_
      rcases hnot with h | h
      · exact absurd h (Nat.not_lt.mpr hlim)
      · simp [hclear] at h
  · intro f credit hv hcovers
    have hcloses : s.closesPeriodOf r = true := closesPeriodOf_iff.mpr ⟨hst, by simp [hslice, hsecond]⟩
    have hcounted := counted_of_credit hg hb hcloses hv
    have hcredit : r.creditDue (s.app.figures r.station) = credit := rfl
    have htaken : (s.counted r).2 = true := by rw [hcounted]
    have h0 : (s.counted r).1.remaining = 0 := by
      rw [hcounted, hcredit]
      dsimp only
      omega
    refine ⟨fun hnext => ?_, fun hlast => exec_recordEnd_ends hc hl hcount hclose hr hrun hlast htaken h0⟩
    obtain ⟨t, hexec, hended, hdone, hframe, hdrop, -⟩ := exec_stageEnd_ends hc hl hcount hclose hr hrun hnext htaken h0
    exact ⟨t, hexec, hended, hdone, hframe, hdrop⟩

end Sys2Proof.Machine
end


section
/-! PROOFS. SKIP of a stage (R51, R52, R60, R106, R107, R153): O47. -/

namespace Sys2Proof.Machine

/-- The work of SKIP on the state that has taken the command, before the Alert Unit's part. -/
def State.skip (s : State) (k j : Nat) : State := (s.endStage k j).modify k Record.remind

/-- The work of an accepted SKIP. -/
theorem skipBody_accepts {s : State} {p : Port} {bytes : List Byte} {r : Record} (h : s.Reaches p bytes r)
    (hrun : r.state = .running) (hgas : p = .remote → isGas r.station = false)
    (hguard : s.skipStartsGas (field bytes 2 1) r = false) :
    let k := field bytes 2 1
    let t := settleFrom (s.takeCommand p) ((s.takeCommand p).skip k s.commandSlice)
    skipBody p bytes (s.takeCommand p) = .ok (t, t.stateByteOf k ++ [byteOf ((t.table.rec? k).elim 0 Record.stage)]) := by
  have hlimit : p = .remote → isGas r.station = true → true = false := fun hp hy => by simp [hgas hp] at hy
  have hguard' : (s.takeCommand p).skipStartsGas (field bytes 2 1) r = false := by
    rw [← hguard]; simp only [State.skipStartsGas, takeCommand_table]
  simp only [skipBody, withRecord_reaches h, allowed_reaches h true hlimit, inState, hrun, beq_self_eq_true, if_true, guarded,
    hguard', Bool.and_false, Bool.false_eq_true, if_false, takeCommand_commandSlice]
  rfl

section

variable {s : State} {p : Port} {bytes : List Byte} {r : Record}

/-- An accepted SKIP is taken by the Alert Unit as one event, and answered by the record's new state byte and stage. -/
theorem exec_skip_settles (htakes : s.Takes p 0x16 bytes) (hreach : s.Reaches p bytes r) (hrun : r.state = .running)
    (hgas : p = .remote → isGas r.station = false) (hguard : s.skipStartsGas (field bytes 2 1) r = false) {x : State}
    (hx : (s.takeCommand p).skip (field bytes 2 1) s.commandSlice = x) {q : Record} (hq : x.table.rec? (field bytes 2 1) = some q) :
    ∃ t, exec .skip s = .next t ∧ t.table = x.table ∧ t.burners = x.burners ∧ t.app = x.app ∧ s.AnnTaken t
      ∧ t = (s.answered p bytes .ok (t.stateByteOf (field bytes 2 1) ++ [byteOf q.stage])).onRecords t := by
  have hbody := skipBody_accepts hreach hrun hgas hguard
  simp only [hx] at hbody
  have hsettled : (settleFrom (s.takeCommand p) x).table = x.table := by rw [settleFrom_eq]
  have hbytes : (settleFrom (s.takeCommand p) x).stateByteOf (field bytes 2 1)
      ++ [byteOf (((settleFrom (s.takeCommand p) x).table.rec? (field bytes 2 1)).elim 0 Record.stage)]
      = x.stateByteOf (field bytes 2 1) ++ [byteOf q.stage] := by
    simp only [State.stateByteOf, hsettled, hq, Option.elim_some]
  rw [hbytes] at hbody
  have hann : x.ann = s.ann := by
    rw [← hx]; exact (endStage_ann _ _ _).trans (takeCommand_ann s p)
  have hhost : (s.takeCommand p).SameHost x := by
    rw [← hx]; exact (endStage_sameHost _ _ _).trans (modify_sameHost _ _ _)
  obtain ⟨a, hexec, htaken⟩ := execute_settles htakes hbody hann
  refine ⟨_, hexec, settledReply_table .., settledReply_burners .., settledReply_app .., htaken, ?_⟩
  have hstate : (x.settledReply p bytes (x.stateByteOf (field bytes 2 1) ++ [byteOf q.stage]) a).stateByteOf (field bytes 2 1)
      = x.stateByteOf (field bytes 2 1) := by
    simp only [State.stateByteOf, settledReply_table]
  rw [hstate]
  exact settledReply_onRecords hhost _ _ _

end

/-- Settles O47, by whether the current stage is the last. -/
theorem skipEndsTheStage : Obligations.SkipEndsTheStage := by
  intro s p bytes r k hc hl htakes hreach hrun hgas
  let u := s.takeCommand p
  have hut : u.table = s.table := takeCommand_table s p
  have huc : u.table.Consistent := by rw [hut]; exact hc
  have hul : u.LevelsFollow := takeCommand_levelsFollow hl p
  have hr : u.table.rec? k = some r := by rw [hut]; exact hreach.record
  have hend : u.endStage k s.commandSlice = if r.hasNextStage then u.nextStage k r s.commandSlice else u.endRecord k r s.commandSlice := by
    simp only [State.endStage, hr]
  refine ⟨fun hnext => ?_, fun hlast hno => ?_⟩
  · have hhas : r.hasNextStage = true := decide_eq_true hnext
    let x := u.nextStage k r s.commandSlice
    have hx : u.skip k s.commandSlice = x.modify k Record.remind := by
      rw [State.skip, hend, if_pos hhas]
    have hhead : u.table.head r.station = k := huc.head_of_isHead hr (by simp [Record.isHead, hrun])
    have hended : u.StageEnded (x.modify k Record.remind) k r := (nextStage_stageEnded hul hr hhead hrun _).remind
    obtain ⟨q, hq, -, hstage, -⟩ := hended.record
    obtain ⟨t, hexec, htable, hburners, happ, hann, hframe⟩ :=
      exec_skip_settles htakes hreach hrun hgas (by simp [State.skipStartsGas, hhas]) hx hq
    refine ⟨t, hexec, hended.of_counted rfl rfl ?_ htable hburners, by rw [hstage] at hframe; exact hframe, ?_, hann⟩
    · rw [hut, Table.put_self hreach.record]
    · have hleaving : s.leaving t r.station = u.leaving x r.station := by
        rw [State.leaving, State.leaving, htable, hut, State.modify_table, elements_modify_remind]
      have hxapp : x.app = u.app.drop (u.leaving x r.station) s.commandSlice :=
        congrArg State.app (nextStage_frame hr s.commandSlice)
      rw [happ, hleaving, State.modify, State.withTable_app, hxapp, takeCommand_app]
      exact Apportioner.drop_dropped _ _ _
  · have hhas : r.hasNextStage = false := by simp [Record.hasNextStage, hlast]
    let x := u.endRecord k r s.commandSlice
    have hself : u = u.withTable (u.table.put k (some r)) := by rw [Table.put_self hr]; rfl
    have hsame : r.SameCourse r := rfl
    have hends : u.EndsLast x k r s.commandSlice := endRecord_endsLast huc hr hrun hlast hsame hself huc hul hr _
    obtain ⟨q, hq, -, -, -, hremind⟩ := hends.ended
    have hx : u.skip k s.commandSlice = x := by
      rw [State.skip, hend, if_neg (by simp [hhas])]
      exact State.modify_self hq hremind
    have hended : s.RecordEnded x k r :=
      (hends.alone (by rw [hut]; exact hno)).congr hut.symm (takeCommand_burners s p).symm (takeCommand_settings s p).symm rfl rfl
    have hstage : q.stage = r.stage := by
      obtain ⟨q', hq', -, heq⟩ := hended.record
      rw [Option.some.inj (hq.symm.trans hq'), heq]
    have hguard : s.skipStartsGas k r = false := by
      have hnil : s.table.slotsWhere (fun d => d.waitsOn k && isGas d.station && d.start.offset == 0) = [] :=
        List.eq_nil_iff_forall_not_mem.mpr fun j hj => by
          obtain ⟨-, d, hd, hw⟩ := Table.mem_slotsWhere.mp hj
          simp [hno j d hd] at hw
      simp [State.skipStartsGas, hnil]
    obtain ⟨t, hexec, htable, hburners, happ, hann, hframe⟩ := exec_skip_settles htakes hreach hrun hgas hguard hx hq
    refine ⟨t, hexec, hended.congr rfl rfl rfl htable hburners, by rw [hstage] at hframe; exact hframe, ?_, hann⟩
    have hleaving : s.leaving t r.station = u.leaving x r.station := by rw [State.leaving, State.leaving, htable, hut]
    rw [happ, hleaving, hends.app, takeCommand_app]
    exact Apportioner.drop_dropped _ _ _

end Sys2Proof.Machine
end


section
/-! PROOFS. The end of a record releases the records that wait on it (R23, R64, R75): O28. -/

namespace Sys2Proof.Machine

/-! ### A placed record (R23, R64) -/

theorem Record.waitsOn_after {r : Record} {k : Nat} (h : r.waitsOn k = true) : r.start.kind = .after := by
  simp only [Record.waitsOn, Record.holdsLink, Bool.and_eq_true, beq_iff_eq] at h
  obtain ⟨⟨⟨-, hkind⟩, -⟩, -⟩ := h
  exact hkind

/-- The record stands as one that has been placed: its start condition is spent, and it runs or is queued. -/
def Record.PlacedAs (r q : Record) : Prop :=
  q.station = r.station ∧ q.start = r.spend.start ∧ (q.state = .running ∨ q.state = .queued)

theorem place_placedAs {s : State} (hs : s.table.Shaped) {k : Nat} {r : Record} (hst : r.station < 8)
    (hr : s.table.rec? k = some r) : ∃ q, (s.place k).table.rec? k = some q ∧ r.PlacedAs q := by
  by_cases h0 : s.table.head r.station = 0
  · obtain ⟨q, hu, hq, -⟩ := makeHead_update hs hst hr
    rw [place_head hr h0]
    refine ⟨q, hu.rec?_same, ?_⟩
    rcases hq with rfl | rfl <;> exact ⟨rfl, rfl, .inl rfl⟩
  · obtain ⟨hu, -⟩ := place_queue hs hst hr h0
    exact ⟨r.joining, hu.rec?_same, rfl, rfl, .inr rfl⟩

/-- Among several records placed together, each is placed once, by a state that still holds it as it was. -/
theorem placeAll_rec?_mem {s : State} {D : Nat → Prop} {ks : List Nat} (hn : s.table.Nearly noSlot D) (hnodup : ks.Nodup)
    (ha : s.table.AllArmed ks) {k : Nat} (hk : k ∈ ks) : ∃ u : State, u.table.Nearly noSlot D
      ∧ u.table.rec? k = s.table.rec? k ∧ (s.placeAll ks).table.rec? k = (u.place k).table.rec? k := by
  induction ks generalizing s with
  | nil => exact absurd hk List.not_mem_nil
  | cons j ks ih =>
    obtain ⟨hj, hks⟩ := List.nodup_cons.mp hnodup
    obtain ⟨p, hp, hpa⟩ := ha j List.mem_cons_self
    have hnear := place_nearly hn hp hpa
    have hafter := Table.AllArmed.after_place hn (fun i hi => ha i (List.mem_cons_of_mem _ hi)) hj
    rcases List.mem_cons.mp hk with rfl | hmem
    · exact ⟨s, hn, rfl, placeAll_rec?_other hnear hks hafter hj⟩
    · obtain ⟨u, hu, hbefore, hplaced⟩ := ih hnear hks hafter hmem
      have hkj : k ≠ j := fun he => hj (he ▸ hmem)
      exact ⟨u, hu, hbefore.trans (place_rec?_other hn.shaped (fun r hr => hn.station_lt hr) hkj), hplaced⟩

/-! ### A released record (R75) -/

section

variable {s : State} {D : Nat → Prop} {k d : Nat} {q : Record}

/-- The link of a record that waits on the slot is released, before any is placed. -/
theorem unlink_rec? (hslots : s.table.slots.length = Config.slotCount) (hq : s.table.rec? d = some q) (hw : q.waitsOn k = true) :
    (s.unlink k).table.rec? d = some q.released := by
  have hmem : d ∈ s.table.slotsWhere (fun r => r.waitsOn k) :=
    Table.mem_slotsWhere.mpr ⟨Table.mem_allSlots_of_rec? hslots hq, q, hq, hw⟩
  rw [(unlink_mapped s k).rec?, hq, Option.map_some, if_pos hmem]

/-- A record with an offset counts it. -/
theorem release_rec?_counts (hn : s.table.Nearly noSlot D) (hq : s.table.rec? d = some q) (hw : q.waitsOn k = true)
    (hoff : q.start.offset ≠ 0) : (s.release k).table.rec? d = some q.released := by
  have hnot : d ∉ s.table.slotsWhere (fun r => r.waitsOn k && r.start.offset == 0) := fun hm => by
    obtain ⟨-, p, hp, hdue⟩ := Table.mem_slotsWhere.mp hm
    obtain rfl := Option.some.inj (hq.symm.trans hp)
    simp [hoff] at hdue
  rw [release_eq, placeAll_rec?_other (unlink_nearly hn k) (Table.slotsWhere_nodup _ _) (unlink_allArmed s k) hnot]
  exact unlink_rec? hn.slots hq hw

/-- A record without an offset is placed. -/
theorem release_rec?_placed (hn : s.table.Nearly noSlot D) (hq : s.table.rec? d = some q) (hw : q.waitsOn k = true)
    (hoff : q.start.offset = 0) : ∃ p, (s.release k).table.rec? d = some p ∧ q.released.PlacedAs p := by
  have hmem : d ∈ s.table.slotsWhere (fun r => r.waitsOn k && r.start.offset == 0) :=
    Table.mem_slotsWhere.mpr ⟨Table.mem_allSlots_of_rec? hn.slots hq, q, hq, by simp [hw, hoff]⟩
  obtain ⟨u, hu, hbefore, hplaced⟩ :=
    placeAll_rec?_mem (unlink_nearly hn k) (Table.slotsWhere_nodup _ _) (unlink_allArmed s k) hmem
  have hrel := hbefore.trans (unlink_rec? hn.slots hq hw)
  rw [release_eq, hplaced]
  exact place_placedAs hu.shaped (hu.station_lt hrel) hrel

end

/-! ### The end of the record waited on (R52, R75) -/

section

variable {s : State} {k : Nat} {r : Record}

/-- The change of station at the end of a record reaches no ARMED record: it promotes out of the queue, and a head is not ARMED. -/
theorem finished_rec?_armed (hc : s.table.Consistent) (hr : s.table.rec? k = some r) (hrun : r.state = .running) {d : Nat}
    {q : Record} (hq : s.table.rec? d = some q) (hdk : d ≠ k) (harmed : q.state = .armed) :
    (s.finished k r).table.rec? d = some q := by
  have hn := hc.nearly noSlot
  have hst := hn.station_lt hr
  have hother : (s.modify k Record.finished).table.rec? d = some q := by rw [State.rec?_modify, if_neg hdk, hq]
  suffices h : ∃ q', (s.finished k r).table.rec? d = some q' ∧ q.Beside q' by
    obtain ⟨q', hq', hbeside⟩ := h
    rwa [hbeside.armed harmed] at hq'
  unfold State.finished
  split
  · exact follow_beside hother _
  · refine promote_beside ((Table.modify_update hc.shaped hst hr _).shaped hc.shaped) hst hother fun n hm => ?_
    rw [State.modify_table, Table.queue_modify] at hm
    obtain ⟨p, hp, hpst, hqueued, -⟩ := hn.of_mem_queue hst hm
    have hnk : n ≠ k := fun he => hc.not_mem_queue_running hr hrun (he ▸ hm)
    exact ⟨p, by rw [State.rec?_modify, if_neg hnk, hp], hpst, hqueued⟩

/-- The end of the last stage, as the table has it: the station changes, then the dependents are released. -/
theorem endStage_last_table (hr : s.table.rec? k = some r) (hlast : r.stage = r.stages.length) (j : Nat) :
    (s.endStage k j).table = ((s.finished k r).release k).table := by
  have hnext : r.hasNextStage = false := by simp [Record.hasNextStage, hlast]
  simp only [State.endStage, hr, hnext, Bool.false_eq_true, if_false]
  rw [endRecord_eq hr]
  rfl

end

/-- Settles O28, by whether the dependent has an offset; where a placed one stands follows from the table's order. -/
theorem recordEndReleasesDependents : Obligations.RecordEndReleasesDependents := by
  intro s k d r q j hc hr hrun hlast hq hw hdk
  have hcf : (s.finished k r).table.Consistent :=
    (keeps_finished hr hrun (by simp [Record.hasNextStage, hlast])).table hc
  have hct : (s.endStage k j).table.Consistent := (keeps_endStage hr hrun j).table hc
  have htable := endStage_last_table hr hlast j
  have hqf := finished_rec?_armed hc hr hrun hq hdk (Record.waitsOn_armed hw)
  have hafter := Record.waitsOn_after hw
  by_cases hoff : q.start.offset = 0
  · obtain ⟨p, hp, hst, hstart, hstate⟩ := release_rec?_placed (hcf.nearly noSlot) hqf hw hoff
    rw [← htable] at hp
    have hst' : p.station = q.station := hst
    refine ⟨p, hp, by rw [hstart]; rfl, by rw [hstart]; exact hafter, absurd hoff, fun _ => ⟨by rw [hstart]; rfl, ?_⟩⟩
    rw [← hst']
    exact hstate.imp (fun h => ⟨h, hct.head_of_isHead hp (by simp [Record.isHead, h])⟩)
      fun h => ⟨h, (hct.queue_iff d p hp).mp h⟩
  · have hp := release_rec?_counts (hcf.nearly noSlot) hqf hw hoff
    rw [← htable] at hp
    exact ⟨q.released, hp, rfl, hafter, fun _ => rfl, fun h => absurd h hoff⟩

end Sys2Proof.Machine
end


section
/-! SUPPORT. What a share of a boundary's work leaves of the agenda (R43, R76, R84), and what the Record Engine's work leaves of every other
block (R50, R90). -/

namespace Sys2Proof.Machine

/-! ### The agenda (R84) -/

/-- The shares named have been taken, none has been added, and every other still stands, but for countdowns, which a record that begins
to run takes off (R43). Notes are no shares. -/
structure State.Took (s t : State) (ws : List Work) : Prop where
  adds_none : ∀ v, isNote v = false → t.awaits v = true → s.awaits v = true
  taken : ∀ v ∈ ws, isNote v = false → t.awaits v = false
  leaves : ∀ v, v ∉ ws → isNote v = false → (∀ k, v ≠ .count k) → s.awaits v = true → t.awaits v = true

theorem State.Took.of_todo {s t : State} (h : t.todo = s.todo) : s.Took t [] := by
  have hawaits : ∀ v, t.awaits v = s.awaits v := fun v => by rw [State.awaits, State.awaits, h]
  exact ⟨fun v _ ht => hawaits v ▸ ht, fun _ hv => absurd hv List.not_mem_nil, fun v _ _ _ hs => (hawaits v).trans hs⟩

theorem State.Took.trans {s t u : State} {ws vs : List Work} (h : s.Took t ws) (g : t.Took u vs) : s.Took u (ws ++ vs) where
  adds_none v hv hu := h.adds_none v hv (g.adds_none v hv hu)
  taken v hmem hv := by
    rcases List.mem_append.mp hmem with hw | hw
    · exact Bool.eq_false_iff.mpr fun hu => Bool.eq_false_iff.mp (h.taken v hw hv) (g.adds_none v hv hu)
    · exact g.taken v hw hv
  leaves v hnot hv hcount hs := by
    obtain ⟨hw, hw'⟩ := not_or.mp (mt List.mem_append.mpr hnot)
    exact g.leaves v hw' hv hcount (h.leaves v hw hv hcount hs)

theorem without_took (s : State) (w : Work) : s.Took (s.without w) [w] where
  adds_none v _ h := by
    rw [without_awaits, Bool.and_eq_true] at h
    exact h.1
  taken v hv _ := by simp [without_awaits, List.mem_singleton.mp hv]
  leaves v hv _ _ h := by simp [without_awaits, h, show v ≠ w from fun he => hv (List.mem_singleton.mpr he)]

/-- What begins to run, or to count, in an event is left for the next boundary; the other shares stand. -/
theorem leaveStarted_took (before after : State) : after.Took (before.leaveStarted after) [] where
  adds_none v hv h := by
    rcases leaveStarted_awaits_iff.mp h with ⟨h, -⟩ | ⟨-, k, -, rfl⟩
    · exact h
    · exact absurd hv (by simp [isNote])
  taken v hv := absurd hv List.not_mem_nil
  leaves v _ _ hcount h := leaveStarted_awaits_iff.mpr (.inl ⟨h, fun k _ => hcount k⟩)

theorem countRecord_took (s : State) (k : Nat) : s.Took (s.countRecord k) [] := by
  rcases countRecord_cases s k with ⟨-, htodo⟩ | ⟨r, q, before, after, -, -, -, hafter, -, -, htodo⟩
  · exact .of_todo htodo
  · have hend : s.Took after [] := .of_todo (by rw [hafter, endStage_todo]; rfl)
    exact (hend.trans (leaveStarted_took before after)).trans (.of_todo htodo)

theorem advanceClock_took (s : State) : s.Took s.advanceClock [] where
  adds_none _ _ h := by
    obtain ⟨-, hs, -⟩ := advanceClock_awaits.mp h
    exact hs
  taken _ hv := absurd hv List.not_mem_nil
  leaves _ _ hv hcount h := advanceClock_awaits.mpr ⟨hv, h, fun k _ => hcount k⟩

theorem judgeStation_todo (s : State) (st : Nat) : (s.judgeStation st).todo = s.todo := by
  unfold State.judgeStation
  split
  · rfl
  · dsimp only
    split
    · rw [settleFrom_eq, follow_eq]; rfl
    · rfl

theorem alertTick_todo (s : State) : s.alertTick.todo = s.todo := by
  unfold State.alertTick
  dsimp only
  split <;> rfl

/-- Doing a share of the work adds no other. -/
theorem perform_took (s : State) (w : Work) : s.Took (s.perform w) [] := by
  cases w with
  | count k => exact countRecord_took s k
  | clock => exact advanceClock_took s
  | judge st => exact .of_todo (judgeStation_todo s st)
  | alertTick => exact .of_todo (alertTick_todo s)
  | refresh => exact .of_todo (by show s.refreshDue.todo = _; unfold State.refreshDue; split <;> rfl)
  | loadEnd => exact .of_todo (by show s.endLoad.todo = _; rw [endLoad_eq])
  | relays | closePeriod | openPeriod | syncTick | released _ => exact .of_todo rfl

theorem takeOne_took (s : State) (w : Work) : s.Took (s.takeOne w) [w] := by
  cases h : s.awaits w with
  | false =>
    rw [takeOne_absent h]
    exact ⟨fun _ _ => id, fun v hv _ => by rw [List.mem_singleton.mp hv, h], fun _ _ _ _ => id⟩
  | true =>
    rw [takeOne_awaited h]
    exact (without_took s w).trans (perform_took (s.without w) w)

theorem takeEach_took (s : State) (ws : List Work) : s.Took (s.takeEach ws) ws := by
  induction ws generalizing s with
  | nil => exact .of_todo rfl
  | cons w ws ih => exact (takeOne_took s w).trans (ih (s.takeOne w))

theorem takeEngine_took (s : State) : s.Took s.takeEngine (.closePeriod :: engineWork) :=
  (takeOne_took s .closePeriod).trans (takeEach_took _ engineWork)

theorem mem_engineWork {w : Work} : w ∈ engineWork ↔ (∃ k ∈ allSlots, w = .count k) ∨ w = .clock := by
  rw [engineWork, List.mem_append, List.mem_map, List.mem_singleton]
  exact or_congr_left ⟨fun ⟨k, hk, he⟩ => ⟨k, hk, he.symm⟩, fun ⟨k, hk, he⟩ => ⟨k, hk, he.symm⟩⟩

theorem isNote_engineWork {w : Work} (h : w ∈ engineWork) : isNote w = false := by
  rcases mem_engineWork.mp h with ⟨k, -, rfl⟩ | rfl <;> rfl

/-! ### The other blocks (R50, R84) -/

@[simp] theorem Apportioner.mapElements_length (a : Apportioner) (f : Nat → Element → Element) :
    (a.mapElements f).elements.length = a.elements.length := by
  simp [Apportioner.mapElements]

theorem Apportioner.deliver_length (a : Apportioner) (j : Nat) : (a.deliver j).elements.length = a.elements.length :=
  a.mapElements_length _

theorem Apportioner.close_length (a : Apportioner) : a.close.elements.length = a.elements.length := a.deliver_length 99

/-- The end of a stage drops elements, and adds or removes none. -/
theorem endStage_elements (s : State) (k j : Nat) : (s.endStage k j).app.elements.length = s.app.elements.length := by
  unfold State.endStage
  split
  · rfl
  · next r hr =>
    split
    · rw [nextStage_frame hr]; exact Apportioner.mapElements_length _ _
    · rw [endRecord_frame hr]; exact Apportioner.mapElements_length _ _

theorem countRecord_elements (s : State) (k : Nat) : (s.countRecord k).app.elements.length = s.app.elements.length := by
  have hwritten : ∀ r, (s.countWritten k r).app.elements.length = s.app.elements.length := fun r => by
    unfold State.countWritten
    dsimp only
    split
    · exact endStage_elements _ _ _
    · rfl
  cases hr : s.table.rec? k with
  | none => simp only [State.countRecord, hr]
  | some r =>
    by_cases hrun : r.state = .running
    · rw [countRecord_running hr hrun, settleFrom_eq]
      dsimp only
      split <;> exact hwritten r
    · rw [countRecord_not_running hr hrun]

/-- The closing of a period, the countdowns and the clock's share keep the number of elements. -/
theorem takeOne_elements (s : State) {w : Work} (h : w ∈ Work.closePeriod :: engineWork) :
    (s.takeOne w).app.elements.length = s.app.elements.length := by
  cases hw : s.awaits w with
  | false => rw [takeOne_absent hw]
  | true =>
    rw [takeOne_awaited hw]
    rcases List.mem_cons.mp h with rfl | h
    · exact s.app.close_length
    · rcases mem_engineWork.mp h with ⟨k, -, rfl⟩ | rfl
      · exact countRecord_elements _ k
      · show (State.advanceClock _).app.elements.length = _
        rw [advanceClock_eq]
        rfl

theorem takeEach_elements {ws : List Work} (h : ∀ w ∈ ws, w ∈ Work.closePeriod :: engineWork) (s : State) :
    (s.takeEach ws).app.elements.length = s.app.elements.length := by
  induction ws generalizing s with
  | nil => rfl
  | cons w ws ih =>
    exact (ih (fun v hv => h v (List.mem_cons_of_mem _ hv)) (s.takeOne w)).trans (takeOne_elements s (h w List.mem_cons_self))

theorem takeEngine_elements (s : State) : s.takeEngine.app.elements.length = s.app.elements.length := by
  rw [State.takeEngine, takeEach_elements fun _ hw => List.mem_cons_of_mem _ hw, takeOne_elements s List.mem_cons_self]

/-- Once the clock has advanced, the rest of the Record Engine's work is the closing of the period and the countdowns: the hosts' side
and the Time Base stand as they are. -/
theorem takeEngine_sameHost {s : State} (h : s.awaits .clock = false) : s.SameHost s.takeEngine := by
  let counted := (s.takeOne .closePeriod).takeEach (allSlots.map Work.count)
  have htook : s.Took counted _ := (takeOne_took s .closePeriod).trans (takeEach_took _ (allSlots.map Work.count))
  have hnone : counted.awaits .clock = false :=
    Bool.eq_false_iff.mpr fun hw => Bool.eq_false_iff.mp h (htook.adds_none _ rfl hw)
  have hlast : s.takeEngine = counted.takeOne .clock := by
    unfold State.takeEngine engineWork State.takeEach
    rw [List.foldl_append, List.foldl_cons, List.foldl_nil]
    rfl
  have hclose : s.SameHost (s.takeOne .closePeriod) := .ite ((withTodo_sameHost s _).trans (withApp_sameHost _ _)) (.rfl' s)
  have hcount : ∀ (u : State) k, u.SameHost (u.takeOne (.count k)) := fun u k =>
    .ite ((withTodo_sameHost u _).trans (countRecord_sameHost _ k)) (.rfl' u)
  rw [hlast, takeOne_absent hnone]
  refine hclose.trans ?_
  show State.SameHost _ (List.foldl _ _ _)
  rw [List.foldl_map]
  exact .foldl _ hcount allSlots _

end Sys2Proof.Machine
end


section
/-! PROOFS. A second boundary's work and the Snapshot Buffer (R84, R85, R90 to R92): O19, O24. -/

namespace Sys2Proof.Machine

/-! ### The refresh (R90, R91, R92) -/

/-- A refresh that falls due has been taken, or deferred by a READ WINDOW frame; the count towards SYNC's fall was taken before it. -/
structure State.Refreshed (s t : State) : Prop where
  frame : t = { s with snap := t.snap, todo := t.todo }
  filled : s.windowInProgress = false →
    t.snap = { entries := snapshotOf s.table s.time.clock, deferred := false, syncCount := 5 }
  deferred : s.windowInProgress = true → t.snap.entries = s.snap.entries ∧ t.snap.deferred = true
  took : s.Took t [.syncTick, .refresh]

theorem syncTick_frame (s : State) : ∃ b, s.takeOne .syncTick = { s with snap := b, todo := (s.takeOne .syncTick).todo }
    ∧ b.entries = s.snap.entries := by
  cases h : s.awaits .syncTick with
  | false => rw [takeOne_absent h]; exact ⟨s.snap, rfl, rfl⟩
  | true => rw [takeOne_awaited h]; exact ⟨s.snap.tick, rfl, rfl⟩

theorem refreshDue_filled {s : State} (h : s.windowInProgress = false) : s.refreshDue = s.takeRefresh := if_neg (by simp [h])

theorem refreshDue_deferred {s : State} (h : s.windowInProgress = true) :
    s.refreshDue = s.withSnap { s.snap with deferred := true } := if_pos h

theorem takeOne_refreshed {s : State} (h : s.awaits .refresh = true) : s.Refreshed ((s.takeOne .syncTick).takeOne .refresh) := by
  have htick := takeOne_took s .syncTick
  have hstill : (s.takeOne .syncTick).awaits .refresh = true := htick.leaves _ (by decide) rfl (by simp) h
  have htook := htick.trans (takeOne_took (s.takeOne .syncTick) .refresh)
  obtain ⟨b, hframe, hentries⟩ := syncTick_frame s
  have hdue := takeOne_awaited hstill
  generalize (s.takeOne .syncTick).takeOne .refresh = t at hdue htook ⊢
  generalize s.takeOne .syncTick = u at hframe hdue
  have hu : u.windowInProgress = s.windowInProgress := by rw [hframe]; rfl
  change t = (u.without .refresh).refreshDue at hdue
  cases hw : s.windowInProgress with
  | false =>
    rw [refreshDue_filled (s := u.without .refresh) (hu.trans hw), hframe] at hdue
    exact ⟨by rw [hdue]; rfl, fun _ => by rw [hdue]; rfl, fun h => by simp [hw] at h, htook⟩
  | true =>
    rw [refreshDue_deferred (s := u.without .refresh) (hu.trans hw), hframe] at hdue
    exact ⟨by rw [hdue]; rfl, fun h => by simp [hw] at h, fun _ => by rw [hdue]; exact ⟨hentries, rfl⟩, htook⟩

/-- A refresh is of the state as it stands where all of the Record Engine's work is still to be taken, and else of the state that all of
that work leaves (R90). -/
theorem take_refreshed {s : State} (h : s.awaits .refresh = true) :
    ((∀ w ∈ engineWork, s.awaits w = true) → s.Refreshed (s.take .refresh))
    ∧ ((∃ w ∈ engineWork, s.awaits w = false) → s.takeEngine.Refreshed (s.take .refresh)) := by
  refine ⟨fun hall => ?_, fun ⟨w, hw, hnone⟩ => ?_⟩
  · rw [take_refresh_first h (List.all_eq_true.mpr hall)]
    exact takeOne_refreshed h
  · rw [take_refresh_after h (List.all_eq_false.mpr ⟨w, hw, by simp [hnone]⟩)]
    exact takeOne_refreshed ((takeEngine_took s).leaves _ (by simp [mem_engineWork]) rfl (by simp) h)

/-- After a refresh that waited for it, nothing of the Record Engine's work is left. -/
theorem refreshed_takeEngine_awaits {s t : State} (h : s.takeEngine.Refreshed t) : ∀ w ∈ engineWork, t.awaits w = false :=
  fun w hw => Bool.eq_false_iff.mpr fun hwait => Bool.eq_false_iff.mp
    ((takeEngine_took s).taken w (List.mem_cons_of_mem _ hw) (isNote_engineWork hw)) (h.took.adds_none w (isNote_engineWork hw) hwait)

theorem windowInProgress_congr {s t : State} (h : t.panel = s.panel) : t.windowInProgress = s.windowInProgress := by
  rw [State.windowInProgress, State.windowInProgress, h]

/-- The Snapshot Buffer after a refresh, read by the state that the refresh leads to. -/
theorem State.Refreshed.snap_eq {s t : State} (h : s.Refreshed t) (hw : s.windowInProgress = false) :
    t.snap = { entries := snapshotOf t.table t.time.clock, deferred := false, syncCount := 5 } := by
  rw [h.frame]
  exact h.filled hw

/-- A refresh touches the Snapshot Buffer and the agenda alone. -/
theorem State.Refreshed.same {s t : State} (h : s.Refreshed t) : t.table = s.table ∧ t.time = s.time ∧ t.app = s.app
    ∧ t.settings = s.settings ∧ t.panel = s.panel ∧ t.remote = s.remote ∧ t.memory = s.memory := by
  rw [h.frame]
  exact ⟨rfl, rfl, rfl, rfl, rfl, rfl, rfl⟩

/-! ### The second boundary (R84, R85) -/

/-- The clock's share advances the reading by one second, round the day (R85). -/
theorem take_clock_frame {s : State} (h : s.awaits .clock = true) : s.take .clock = { s with
    time := { s.time with clock := (s.time.clock + 1) % 86400 }
    table := (s.take .clock).table, burners := (s.take .clock).burners, todo := (s.take .clock).todo } := by
  rw [take_clock h]
  conv_lhs => rw [advanceClock_eq]
  rfl

theorem take_clock_took {s : State} (h : s.awaits .clock = true) : s.Took (s.take .clock) [.clock] := by
  rw [take_clock h]
  exact (without_took s .clock).trans (advanceClock_took (s.without .clock))

/-- The refresh comes after the clock's share, so it waits for the counting (log 2, log 3; R90). -/
theorem secondBoundary_refreshed {s : State} (hclock : s.awaits .clock = true) (hrefresh : s.awaits .refresh = true) :
    (s.take .clock).takeEngine.Refreshed ((s.take .clock).take .refresh) := by
  have hstill := (take_clock_took hclock).leaves .refresh (by simp) rfl (by simp) hrefresh
  obtain ⟨-, hafter⟩ := take_refreshed hstill
  exact hafter ⟨.clock, mem_engineWork.mpr (.inr rfl), take_clock_awaits_clock hclock⟩

/-- Settles O19: the refresh of SECOND_BOUNDARY comes after all of the Record Engine's work; one sent before any of that work was taken
reads the table as it stands. -/
theorem secondBoundaryTakesItsWork : Obligations.SecondBoundaryTakesItsWork := by
  refine ⟨fun s hclock hrefresh => ?_, fun s hrefresh hw => ?_⟩
  · have hrefreshed := secondBoundary_refreshed hclock hrefresh
    have hengine := takeEngine_sameHost (take_clock_awaits_clock hclock)
    have hnone := refreshed_takeEngine_awaits hrefreshed
    have hframe := take_clock_frame hclock
    have hwindow : (s.take .clock).takeEngine.windowInProgress = s.windowInProgress :=
      windowInProgress_congr (by rw [hengine.panel, hframe])
    obtain ⟨-, htime, happ, hsettings, hpanel, hremote, hmemory⟩ := hrefreshed.same
    refine ⟨(s.take .clock).take .refresh, rfl, ?_, hnone _ (mem_engineWork.mpr (.inr rfl)), hrefreshed.took.taken _ (by simp) rfl,
      fun k hk => hnone _ (mem_engineWork.mpr (.inl ⟨k, hk, rfl⟩)), fun hw => hrefreshed.snap_eq (hwindow.trans hw), fun hw => ?_,
      ?_, ?_, ?_, ?_, ?_⟩
    · rw [htime, hengine.time, hframe]
    · obtain ⟨hentries, hdeferred⟩ := hrefreshed.deferred (hwindow.trans hw)
      exact ⟨by rw [hentries, hengine.snap, hframe], hdeferred⟩
    · rw [happ, takeEngine_elements, hframe]
    · rw [hsettings, hengine.settings, hframe]
    · rw [hpanel, hengine.panel, hframe]
    · rw [hremote, hengine.remote, hframe]
    · rw [hmemory, hengine.memory, hframe]
  · obtain ⟨hbefore, hafter⟩ := take_refreshed hrefresh
    have hpanel : s.takeEngine.panel = s.panel := (takeEngine_sameBoard s).panel
    refine ⟨?_, fun hall => ?_, fun hsome => refreshed_takeEngine_awaits (hafter hsome)⟩
    · by_cases hall : ∀ w ∈ engineWork, s.awaits w = true
      · exact (hbefore hall).snap_eq hw
      · have hsome : ∃ w ∈ engineWork, s.awaits w = false := by simpa using hall
        exact (hafter hsome).snap_eq ((windowInProgress_congr hpanel).trans hw)
    · obtain ⟨htable, htime, -⟩ := (hbefore hall).same
      exact ⟨htable, htime⟩

/-! ### SYNC (R92) -/

theorem sync_iff {s : State} (h : s.held = false) : s.sync = true ↔ 1 ≤ s.snap.syncCount := by
  simp [State.sync, h, Nat.one_le_iff_ne_zero, Nat.pos_iff_ne_zero]

/-- Settles O24: SYNC_FALL is the share of the boundary at which the count comes to 0. -/
theorem syncFallsAtZero : Obligations.SyncFallsAtZero := by
  refine ⟨fun s h hone => ⟨s.take .syncTick, congrArg Host.Outcome.next (if_pos hone), ?_⟩, fun s => ⟨rfl, sync_iff⟩⟩
  have htake : s.take .syncTick = (s.without .syncTick).withSnap s.snap.tick := by
    rw [State.take, if_pos h]
    exact takeOne_awaited h
  have hzero : s.snap.tick = { s.snap with syncCount := 0 } := by rw [SnapshotBuffer.tick, hone]
  rw [htake, hzero]
  exact ⟨by simp [State.sync], rfl⟩

end Sys2Proof.Machine
end


section
/-! SUPPORT. The count of crystal cycles under every event (R82): power, RESETn and a slice boundary return it to 0, every other event
leaves it and the slice counter alone. -/

namespace Sys2Proof.Machine

/-! ### The count stands -/

/-- The Time Base stands at the same crystal cycle of the same slice. -/
structure State.SameCycle (s t : State) : Prop where
  cycle : t.time.cycle = s.time.cycle
  slice : t.time.slice = s.time.slice

namespace State.SameCycle

theorem of_time {s t : State} (h : t.time = s.time) : s.SameCycle t := ⟨by rw [h], by rw [h]⟩

theorem refl (s : State) : s.SameCycle s := of_time rfl

theorem trans {s t u : State} (h : s.SameCycle t) (g : t.SameCycle u) : s.SameCycle u :=
  ⟨g.cycle.trans h.cycle, g.slice.trans h.slice⟩

theorem ite {s t u : State} {c : Prop} [Decidable c] (h : s.SameCycle t) (g : s.SameCycle u) : s.SameCycle (if c then t else u) := by
  split
  · exact h
  · exact g

theorem of_sameHost {s t : State} (h : s.SameHost t) : s.SameCycle t := of_time h.time

theorem of_sameBoard {s t : State} (h : s.SameBoard t) : s.SameCycle t := ⟨by rw [h.time], by rw [h.time]⟩

end State.SameCycle

/-! ### The state that an accepted command leads to (R139) -/

/-- Where the verdict accepts, the state it leads to has the property. -/
def LeadsTo (P : State → Prop) (v : Verdict) : Prop := ∀ t data, v = .ok (t, data) → P t

namespace LeadsTo

variable {P : State → Prop} {s : State} {p : Port} {v w : Verdict}

theorem error (c : ResultCode) : LeadsTo P (.error c) := fun _ _ h => absurd h (by simp)

theorem ok {t : State} {data : List Byte} (h : P t) : LeadsTo P (.ok (t, data)) := fun _ _ he => verdict_ok_inj he ▸ h

theorem ite {c : Prop} [Decidable c] (h : LeadsTo P v) (g : LeadsTo P w) : LeadsTo P (if c then v else w) := by
  split
  · exact h
  · exact g

theorem withRecord {k : Nat} {work : Record → Verdict} (h : ∀ r, LeadsTo P (work r)) : LeadsTo P (s.withRecord p k work) :=
  fun t data he => by
    obtain ⟨r, -, he⟩ := withRecord_ok he
    exact h r t data he

theorem allowed {st : Nat} {limit : Bool} (h : LeadsTo P v) : LeadsTo P (s.allowed p st limit v) := fun t data he =>
  h t data (allowed_ok he)

theorem inState {ok : Bool} (h : LeadsTo P v) : LeadsTo P (inState ok v) := fun t data he => by
  obtain ⟨-, he⟩ := inState_ok he
  exact h t data he

theorem guarded {starts : Bool} (h : LeadsTo P v) : LeadsTo P (guarded p starts v) := fun t data he => h t data (guarded_ok he)

theorem panelOnly (h : LeadsTo P v) : LeadsTo P (panelOnly p v) := fun t data he => h t data (panelOnly_ok he)

theorem notStoring (h : LeadsTo P v) : LeadsTo P (s.notStoring v) := fun t data he => h t data (notStoring_ok he)

end LeadsTo

/-! ### The effects of commands on other blocks -/

theorem stationReset_sameHost (s : State) (st : Nat) : s.SameHost (s.stationReset st) :=
  settleFrom_sameHost ((retireAll_sameHost s _ _).trans (dropElements_sameHost _ _ _)) s

theorem setPermission_sameCycle (s : State) (st v : Nat) : s.SameCycle (s.setPermission st v) := by
  have hset : s.SameCycle (s.withSettings (s.settings.withValue (0x50 + st) v)) := .of_time rfl
  refine .ite (.trans hset ?_) hset
  rw [settleFrom_eq]
  exact .of_time (retireAll_sameHost (s.withSettings (s.settings.withValue (0x50 + st) v)) _ _).time

theorem setItem_sameCycle (s : State) (id v : Nat) : s.SameCycle (s.setItem id v) :=
  .ite (.of_time rfl) (.ite (.of_time (by rw [setPriority_eq])) (.ite (setPermission_sameCycle s _ v) (.of_time rfl)))

theorem createChecked_sameCycle (s : State) (p : Port) (c : CreateParams) (sc : StartCondition) :
    LeadsTo s.SameCycle (s.createChecked p c sc) := by
  refine .ite (.error _) (.ite (.error _) (.ite (.error _) ?_))
  split
  · exact .error _
  · exact .ite (.error _) (.ok (.of_sameHost (.ite ((withTable_sameHost s _).trans (place_sameHost _ _)) (withTable_sameHost s _))))

theorem create_sameCycle (p : Port) (bytes : List Byte) (s : State) : LeadsTo s.SameCycle (createBody p bytes s) := by
  unfold createBody
  split
  · exact .error _
  · refine .ite ?_ (.error _)
    split
    · exact .error _
    · exact .allowed (createChecked_sameCycle s p _ _)

/-- SET CLOCK writes the reading and CLOCK_VALID, no count (R86). -/
theorem setClock_sameCycle (p : Port) (bytes : List Byte) (s : State) : LeadsTo s.SameCycle (setClockBody p bytes s) :=
  .ite (.error _) (.guarded (.ok (.trans (t := s.withTime { s.time with clock := _, valid := true }) ⟨rfl, rfl⟩
    (.of_sameHost (placeAll_sameHost _ _)))))

theorem adjust_sameCycle (p : Port) (bytes : List Byte) (s : State) : LeadsTo s.SameCycle (adjustBody p bytes s) := by
  refine .ite (.error _) (.withRecord fun r => .allowed ?_)
  split
  · exact .error _
  · exact .ok (.of_sameHost (settleFrom_sameHost (modify_sameHost s _ _) s))

theorem ack_sameCycle (p : Port) (bytes : List Byte) (s : State) : LeadsTo s.SameCycle (ackBody p bytes s) := by
  unfold ackBody
  dsimp only
  split
  · exact .error _
  · exact .withRecord fun r => .allowed (.ok (.of_sameHost
      (settleFrom_sameHost (.ite (retire_sameHost s _ _ _) (modify_sameHost s _ _)) s)))

theorem setItemBody_sameCycle (p : Port) (bytes : List Byte) (s : State) : LeadsTo s.SameCycle (setItemBody p bytes s) := by
  refine .panelOnly (.notStoring ?_)
  dsimp only
  split
  · exact .error _
  · exact .ite (.ok (setItem_sameCycle s _ _)) (.error _)

theorem getItem_sameCycle (p : Port) (bytes : List Byte) (s : State) : LeadsTo s.SameCycle (getItemBody p bytes s) := by
  unfold getItemBody
  dsimp only
  split
  · exact .error _
  · exact .ok (.refl s)

theorem retire_sameCycle (p : Port) (bytes : List Byte) (s : State) : LeadsTo s.SameCycle (retireBody p bytes s) := by
  refine .withRecord fun r => .allowed (.guarded (.ok (.of_sameHost ?_)))
  exact settleFrom_sameHost (retire_sameHost s _ _ _) s

theorem pause_sameCycle (p : Port) (bytes : List Byte) (s : State) : LeadsTo s.SameCycle (pauseBody p bytes s) := by
  refine .withRecord fun r => .allowed (.inState (.ok (.of_sameHost ?_)))
  exact ((modify_sameHost s _ _).trans (dropElements_sameHost _ _ _)).trans (follow_sameHost _ _)

theorem resume_sameCycle (p : Port) (bytes : List Byte) (s : State) : LeadsTo s.SameCycle (resumeBody p bytes s) := by
  refine .withRecord fun r => .allowed (.inState (.ok (.of_sameHost ?_)))
  exact (modify_sameHost s _ _).trans (follow_sameHost _ _)

theorem setLevel_sameCycle (p : Port) (bytes : List Byte) (s : State) : LeadsTo s.SameCycle (setLevelBody p bytes s) := by
  refine .ite (.error _) (.withRecord fun r => .ite (.error _) (.allowed (.inState (.ok (.of_sameHost ?_)))))
  exact (modify_sameHost s _ _).trans (follow_sameHost _ _)

theorem skip_sameCycle (p : Port) (bytes : List Byte) (s : State) : LeadsTo s.SameCycle (skipBody p bytes s) := by
  refine .withRecord fun r => .allowed (.inState (.guarded (.ok (.of_sameHost ?_))))
  exact settleFrom_sameHost ((endStage_sameHost s _ _).trans (modify_sameHost _ _ _)) s

theorem start_sameCycle (p : Port) (bytes : List Byte) (s : State) : LeadsTo s.SameCycle (startBody p bytes s) := by
  refine .withRecord fun r => .allowed (.inState (.ok (.of_sameHost ?_)))
  exact place_sameHost s _

/-! ### The Command Unit -/

theorem conclude_sameCycle {s : State} {v : Verdict} (h : LeadsTo s.SameCycle v) (p : Port) (tag : Byte) :
    s.SameCycle (s.conclude p tag v) := by
  cases v with
  | error c => exact .of_time (reply_time s p _)
  | ok x => exact .trans (h x.1 x.2 rfl) (.of_time (reply_time (s.afterCommand x.1) p _))

/-- A command leaves the count where its own work does. -/
theorem execute_sameCycle {code : Nat} {body : Port → List Byte → State → Verdict} {s t : State}
    (he : execute code body s = .next t) (h : ∀ p bytes u, LeadsTo u.SameCycle (body p bytes u)) : s.SameCycle t := by
  rw [← outcome_next_inj he]
  split
  · exact .refl s
  · next p bytes _ =>
    refine .ite (.trans (.of_time (takeCommand_time s p)) (conclude_sameCycle ?_ p _)) (.refl s)
    exact .ite (.error _) (.ite (.error _) (h p bytes (s.takeCommand p)))

theorem command_sameCycle {c : Instr} {code : Nat} (hcode : commandCode c = some code) {s t : State} (h : exec c s = .next t) :
    s.SameCycle t := by
  cases c with
  | create => exact execute_sameCycle h create_sameCycle
  | retire => exact execute_sameCycle h retire_sameCycle
  | pause => exact execute_sameCycle h pause_sameCycle
  | resume => exact execute_sameCycle h resume_sameCycle
  | adjust => exact execute_sameCycle h adjust_sameCycle
  | setLevel => exact execute_sameCycle h setLevel_sameCycle
  | skip => exact execute_sameCycle h skip_sameCycle
  | start => exact execute_sameCycle h start_sameCycle
  | query => exact execute_sameCycle h fun _ _ u => .withRecord fun _ => .ok (.refl u)
  | list => exact execute_sameCycle h fun _ _ u => .ite (.error _) (.ok (.refl u))
  | nextAlert => exact execute_sameCycle h fun _ _ u => .ok (.refl u)
  | ack => exact execute_sameCycle h ack_sameCycle
  | silence => exact execute_sameCycle h fun _ _ _ => .ite (.ok (.of_time rfl)) (.error _)
  | setClock => exact execute_sameCycle h setClock_sameCycle
  | window => exact execute_sameCycle h fun _ _ _ => .panelOnly (.ite (.ok (.of_time rfl)) (.error _))
  | setItem => exact execute_sameCycle h setItemBody_sameCycle
  | getItem => exact execute_sameCycle h getItem_sameCycle
  | storeSettings => exact execute_sameCycle h fun _ _ _ => .panelOnly (.notStoring (.ok (.of_time rfl)))
  | settingsStatus => exact execute_sameCycle h fun _ _ u => .ok (.refl u)
  | grant =>
    exact execute_sameCycle h fun _ _ u => .panelOnly (.notStoring (.ite (.error _) (.ok (setPermission_sameCycle u _ _))))
  | softReset => exact execute_sameCycle h fun _ _ _ => .panelOnly (.ok (.of_time rfl))
  | stationReset =>
    exact execute_sameCycle h fun _ _ u => .panelOnly (.ite (.error _) (.ok (.of_sameHost (stationReset_sameHost u _))))
  | _ => exact absurd hcode (by simp [commandCode])

theorem refusal_sameCycle (s : State) (p : Port) (tag : Byte) (c : ResultCode) :
    s.SameCycle ((s.takeCommand p).conclude p tag (.error c)) :=
  .trans (.of_time (takeCommand_time s p)) (conclude_sameCycle (.error c) p tag)

theorem badCommand_sameCycle {s t : State} (h : exec .badCommand s = .next t) : s.SameCycle t := by
  rw [← outcome_next_inj h]
  split
  · exact .refl s
  · split
    · exact .refl s
    · exact .ite (.refl s) (refusal_sameCycle s _ _ _)

theorem commandWithoutCode_sameCycle {s t : State} (h : exec .commandWithoutCode s = .next t) : s.SameCycle t := by
  rw [← outcome_next_inj h]
  split
  · exact .refl s
  · split
    · exact .refl s
    · exact refusal_sameCycle s _ _ _

/-! ### Every event (R82, R83) -/

theorem take_sameCycle (s : State) (w : Work) : s.SameCycle (s.take w) := .of_sameBoard (take_sameBoard s w)

theorem takeBoundary_cycle (s : State) (lines : Lines) (first later : List Work) :
    (s.takeBoundary lines first later).time.cycle = 0
      ∧ (s.takeBoundary lines first later).time.slice = (if s.time.slice + 1 < 10 then s.time.slice + 1 else 0)
      ∧ (s.takeBoundary lines first later).time.second = (if s.time.slice + 1 < 10 then s.time.second
        else if s.time.second + 1 < 10 then s.time.second + 1 else 0) := by
  rw [takeBoundary_time]
  exact ⟨rfl, rfl, rfl⟩

theorem sliceBoundary_cycle {s t : State} {lines : Lines} {first later : List Work}
    (h : exec (.sliceBoundary lines first later) s = .next t) : t.time.cycle = 0 ∨ s.SameCycle t := by
  cases hheld : s.held with
  | true =>
    have hlast : s.toLastCycle = s := if_pos hheld
    refine .inr (.of_time ?_)
    rw [← outcome_next_inj h, hlast, crystalCycle_held hheld]
  | false =>
    rw [exec_sliceBoundary hheld] at h
    obtain ⟨hzero, -⟩ := takeBoundary_cycle (s.withTime { s.time with cycle := s.time.sliceLength - 1 }) lines first later
    exact .inl (outcome_next_inj h ▸ hzero)

/-- An event returns the count of cycles to 0, or leaves it and the slice counter alone. -/
theorem exec_cycle (c : Instr) {s t : State} (h : exec c s = .next t) : t.time.cycle = 0 ∨ s.SameCycle t := by
  cases hcode : commandCode c with
  | some code => exact .inr (command_sameCycle hcode h)
  | none =>
    cases c with
    | powerOn radr status landed => exact .inl (outcome_next_inj h ▸ rfl)
    | resetnLow landed =>
      rw [← outcome_next_inj h]
      split
      · exact .inr (.refl s)
      · exact .inl rfl
    | resetnRelease radr status =>
      rw [← outcome_next_inj h]
      split
      · exact .inl rfl
      · exact .inr (.refl s)
    | sliceBoundary lines first later => exact sliceBoundary_cycle h
    | loadEntry => exact .inr (outcome_next_inj h ▸ .ite (.refl s) (.of_time (State.withLink_time _ _)))
    | secondBoundary => exact .inr (outcome_next_inj h ▸ (take_sameCycle s _).trans (take_sameCycle _ _))
    | loadEnd | periodBoundary => exact .inr (outcome_next_inj h ▸ take_sameCycle s _)
    | syncFall | delayDue _ | offsetDue _ | stageEnd _ | recordEnd _ | flameLoss _ | soundTimeout =>
      exact .inr (outcome_next_inj h ▸ .ite (take_sameCycle s _) (.refl s))
    | badCommand => exact .inr (badCommand_sameCycle h)
    | commandWithoutCode => exact .inr (commandWithoutCode_sameCycle h)
    | storeWriteComplete | storeWriteTimeout _ =>
      rw [← outcome_next_inj h]
      refine .inr ?_
      split
      · exact .of_time (State.withLink_time _ _)
      all_goals exact .refl s
    | commandFrameEnd bytes =>
      rw [← outcome_next_inj h]
      refine .inr ?_
      split
      · exact .ite (.refl s) (.of_time rfl)
      all_goals exact .refl s
    | readWindowEnd => exact .inr (outcome_next_inj h ▸ .ite (.refl s) (.ite (.of_time rfl) (.of_time rfl)))
    | pcsFall | frameTypeByte _ | fetchLengthByte | windowEntry | portStatusByte _ | i2cAddress _ _ | remoteWriteFirstByte _
    | remoteWriteOverlong | remoteWriteEnd _ | pcsRise | readTransactionEnd =>
      exact .inr (outcome_next_inj h ▸ .ite (.refl s) (.of_time rfl))
    | _ => exact absurd hcode (by simp [commandCode])

end Sys2Proof.Machine
end


section
/-! PROOFS. Crystal cycles, slices and the first boundary after a release (R82, R83): O2. -/

namespace Sys2Proof.Machine

/-! ### The length of a slice (R82) -/

theorem TimeBase.sliceLength_fifth {t : TimeBase} (h : t.slice = 4 ∨ t.slice = 9) : t.sliceLength = 3276 :=
  if_pos (by omega)

theorem TimeBase.sliceLength_other {t : TimeBase} (hslice : t.slice < 10) (h4 : t.slice ≠ 4) (h9 : t.slice ≠ 9) :
    t.sliceLength = 3277 := if_neg (by omega)

theorem TimeBase.sliceLength_pos (t : TimeBase) : 0 < t.sliceLength := by
  rcases t.sliceLength_cases with h | h <;> omega

/-! ### Steps on an empty queue (R82) -/

section

variable {s : State}

theorem step_idle_held (hp : s.pending = []) (h : s.held = true) : step s = .next s := by
  rw [step_idle hp, State.idleCycle, crystalCycle_held h]

theorem step_idle_counts (hp : s.pending = []) (h : s.held = false) (hc : s.time.cycle + 1 < s.time.sliceLength) :
    step s = .next (s.withTime { s.time with cycle := s.time.cycle + 1 }) := by
  rw [step_idle hp, State.idleCycle, crystalCycle_counts h hc]

/-- The completing cycle makes the boundary, the lines standing as sampled last (log 30). -/
theorem step_idle_completes (hp : s.pending = []) (h : s.held = false) (hc : s.time.sliceLength ≤ s.time.cycle + 1) :
    step s = .next (s.takeBoundary s.time.lines [] []) := by
  rw [step_idle hp, State.idleCycle, crystalCycle_completes h hc]

/-- No step lets the count reach the length of the slice. -/
theorem step_keeps_cycle {t : State} (hc : s.time.cycle < s.time.sliceLength) (h : step s = .next t) :
    t.time.cycle < t.time.sliceLength := by
  have hcount : t.time.cycle = 0 ∨ s.SameCycle t → t.time.cycle < t.time.sliceLength := by
    rintro (hzero | ⟨hcycle, hslice⟩)
    · rw [hzero]; exact t.time.sliceLength_pos
    · rwa [hcycle, TimeBase.sliceLength, hslice]
  cases hp : s.pending with
  | cons c rest =>
    rw [step, hp] at h
    exact hcount ((exec_cycle c h).imp_right fun ⟨hcycle, hslice⟩ => ⟨hcycle, hslice⟩)
  | nil =>
    cases hheld : s.held with
    | true =>
      rw [step_idle_held hp hheld] at h
      exact hcount (.inr (outcome_next_inj h ▸ .refl s))
    | false =>
      rcases Nat.lt_or_ge (s.time.cycle + 1) s.time.sliceLength with hlt | hge
      · rw [step_idle_counts hp hheld hlt] at h
        exact outcome_next_inj h ▸ hlt
      · rw [step_idle_completes hp hheld hge] at h
        obtain ⟨hzero, -⟩ := takeBoundary_cycle s s.time.lines [] []
        exact hcount (.inl (outcome_next_inj h ▸ hzero))

theorem idleSteps_succ {t : State} {n : Nat} (h : step s = .next t) : idleSteps (n + 1) s = idleSteps n t := by
  rw [idleSteps, h]

/-- Cycles that do not complete the slice are counted one by one, and nothing else changes. -/
theorem idleSteps_count {n : Nat} (hp : s.pending = []) (hheld : s.held = false) (hn : s.time.cycle + n < s.time.sliceLength) :
    ∀ m, idleSteps (n + m) s = idleSteps m (s.withTime { s.time with cycle := s.time.cycle + n }) := by
  induction n generalizing s with
  | zero => exact fun m => by rw [Nat.zero_add]; rfl
  | succ n ih =>
    intro m
    let t := s.withTime { s.time with cycle := s.time.cycle + 1 }
    have hstep : step s = .next t := step_idle_counts hp hheld (by omega)
    have hn' : t.time.cycle + n < t.time.sliceLength := by
      show s.time.cycle + 1 + n < s.time.sliceLength
      omega
    have hcycle : s.time.cycle + (n + 1) = s.time.cycle + 1 + n := by omega
    have hsum : n + 1 + m = n + m + 1 := by omega
    rw [hsum, idleSteps_succ hstep, ih (s := t) hp hheld hn' m, hcycle]
    rfl

end

/-- After a release no slice has begun but the first (R83). -/
theorem State.PoweredUp.sliceLength {s : State} {radr : BitVec 2} (h : s.PoweredUp radr) : s.time.sliceLength = 3277 :=
  TimeBase.sliceLength_other (by rw [h.slice]; decide) (by rw [h.slice]; decide) (by rw [h.slice]; decide)

/-- Settles O2: the three cases of a crystal cycle, the slice lengths, the count under every event, and the cycles after a release. -/
theorem idleStepCountsACycle : Obligations.IdleStepCountsACycle := by
  refine ⟨fun s hp => ⟨step_idle_held hp, step_idle_counts hp, fun hheld hlast => ?_⟩,
    fun t => ⟨TimeBase.sliceLength_fifth, TimeBase.sliceLength_other, by simp [List.range_succ, TimeBase.sliceLength],
      by simp [List.range_succ, TimeBase.sliceLength]⟩, fun s t _ hc h => step_keeps_cycle hc h,
    fun radr s hs hp => ⟨fun n hn => ?_, ?_⟩⟩
  · have hstep := step_idle_completes hp hheld hlast.ge
    obtain ⟨hcycle, hslice, -⟩ := takeBoundary_cycle s s.time.lines [] []
    have hsame : s.withTime { s.time with cycle := s.time.sliceLength - 1 } = s := by
      rw [← hlast, Nat.add_sub_cancel]; rfl
    refine ⟨s.takeBoundary s.time.lines [] [], hstep, ?_, hcycle, hslice⟩
    rw [hstep, exec_sliceBoundary hheld, hsame]
  · have hcount := idleSteps_count (n := n) hp hs.held (by rw [hs.cycle, hs.sliceLength]; omega) 0
    rwa [hs.cycle, Nat.zero_add] at hcount
  · let last := s.withTime { s.time with cycle := 3276 }
    have hlength : last.time.sliceLength = 3277 := hs.sliceLength
    have hcount := idleSteps_count (n := 3276) hp hs.held (by rw [hs.cycle, hs.sliceLength]; decide) 1
    rw [hs.cycle, Nat.zero_add] at hcount
    have hstep : step last = .next (last.takeBoundary last.time.lines [] []) := step_idle_completes hp hs.held hlength.le
    obtain ⟨hcycle, hslice, hsecond⟩ := takeBoundary_cycle last last.time.lines [] []
    have hzero : last.time.slice = 0 := hs.slice
    refine ⟨_, hcount.trans (idleSteps_succ hstep), hcycle, ?_, ?_⟩
    · rw [hslice, hzero]; rfl
    · rw [hsecond, hzero]; exact hs.second

end Sys2Proof.Machine
end

section
/-! SUPPORT. The elements of the Apportioner by their index, the load of a slice as a sum over them, and the placement order for ranks
of any size (section 6.1 of the spec; R3). -/

namespace Sys2Proof.Machine

/-! ### The five elements -/

theorem mem_allElements {e : Nat} : e ∈ allElements ↔ e < 5 := by
  simp only [allElements, List.mem_cons, List.not_mem_nil, or_false]
  omega

/-- An element of the list, changed by its index. -/
theorem Apportioner.element_mapElements_lt (a : Apportioner) (f : Nat → Element → Element) {e : Nat} (h : e < a.elements.length) :
    (a.mapElements f).element e = f e (a.element e) := by
  simp [Apportioner.mapElements, Apportioner.element, h]

/-- The elements, read one by one. -/
theorem Apportioner.elements_eq_map {a : Apportioner} (h : a.elements.length = 5) : a.elements = allElements.map a.element := by
  refine List.ext_getElem (by rw [h]; rfl) fun e he _ => ?_
  have hindex : ∀ (n : Nat) (hn : n < allElements.length), allElements[n] = n := by decide
  rw [List.getElem_map, hindex, Apportioner.element, List.getD_eq_getElem _ _ he]

/-! ### The load of a slice -/

/-- What an element adds to the load of a slice. -/
def Element.loadIn (x : Element) (j : Nat) : Nat := if x.onIn j then x.rating else 0

/-- The load is the sum of the ratings of the elements on. -/
theorem Apportioner.load_eq {a : Apportioner} (h : a.elements.length = 5) (j : Nat) :
    a.load j = ((allElements.filter (fun e => (a.element e).onIn j)).map (fun e => (a.element e).rating)).sum := by
  conv_lhs => rw [Apportioner.load, Apportioner.elements_eq_map h, List.filter_map, List.map_map]
  rfl

theorem Apportioner.load_eq_sum {a : Apportioner} (h : a.elements.length = 5) (j : Nat) :
    a.load j = ∑ e ∈ Finset.range 5, (a.element e).loadIn j := by
  have hmap := List.sum_map_ite (fun e => (a.element e).onIn j = true) (fun e => (a.element e).rating) (fun _ => 0) allElements
  simp only [Bool.decide_eq_true, List.map_const', List.sum_replicate, smul_zero, add_zero] at hmap
  rw [Apportioner.load_eq h, ← hmap]
  rfl

/-- A plan in which no element adds more loads no slice more. -/
theorem Apportioner.load_mono {a b : Apportioner} (ha : a.elements.length = 5) (hb : b.elements.length = 5) {j : Nat}
    (h : ∀ e, e < 5 → (b.element e).loadIn j ≤ (a.element e).loadIn j) : b.load j ≤ a.load j := by
  rw [Apportioner.load_eq_sum ha, Apportioner.load_eq_sum hb]
  exact Finset.sum_le_sum fun e he => h e (Finset.mem_range.mp he)

/-- An element with the same rating, on only where it was on before, adds no more. -/
theorem Element.loadIn_mono {x y : Element} {j : Nat} (hrating : y.rating = x.rating) (hon : y.onIn j = true → x.onIn j = true) :
    y.loadIn j ≤ x.loadIn j := by
  unfold Element.loadIn
  split
  · next h => rw [if_pos (hon h), hrating]
  · exact Nat.zero_le _

theorem Element.onIn_iff {x : Element} {j : Nat} : x.onIn j = true ↔ j ∈ x.on := List.contains_iff_mem

/-! ### The placement order (R3) -/

/-- Every element stands in the order once, whatever the ranks. -/
theorem Apportioner.placementOrder_perm_allElements (a : Apportioner) : a.placementOrder.Perm allElements := by
  have hall : allElements.Nodup := by decide
  refine (List.perm_ext_iff_of_nodup ?_ hall).mpr fun e => ?_
  · refine List.nodup_append'.mpr ⟨List.nodup_flatMap.mpr ⟨fun _ _ => hall.filter _, ?_⟩, hall.filter _, fun e hlow hhigh => ?_⟩
    · refine List.nodup_range.imp fun hne e he hf => hne ?_
      simp only [List.mem_filter, beq_iff_eq] at he hf
      exact he.2.symm.trans hf.2
    · simp only [List.mem_flatMap, List.mem_range, List.mem_filter, beq_iff_eq, decide_eq_true_eq] at hlow hhigh
      obtain ⟨r, hr, -, hrank⟩ := hlow
      omega
  · simp only [Apportioner.placementOrder, List.mem_append, List.mem_flatMap, List.mem_range, List.mem_filter, beq_iff_eq,
      decide_eq_true_eq]
    constructor
    · rintro (⟨_, _, he, _⟩ | ⟨he, _⟩) <;> exact he
    · intro he
      rcases Nat.lt_or_ge (a.element e).rank 8 with hlow | hhigh
      · exact .inl ⟨_, hlow, he, rfl⟩
      · exact .inr ⟨he, hhigh⟩

theorem Apportioner.placementOrder_nodup (a : Apportioner) : a.placementOrder.Nodup :=
  a.placementOrder_perm_allElements.nodup_iff.mpr (by decide)

theorem Apportioner.mem_placementOrder_iff (a : Apportioner) {e : Nat} : e ∈ a.placementOrder ↔ e < 5 :=
  a.placementOrder_perm_allElements.mem_iff.trans mem_allElements

/-- The order looks at the ranks alone. -/
theorem Apportioner.placementOrder_congr {a b : Apportioner} (h : ∀ e, (b.element e).rank = (a.element e).rank) :
    b.placementOrder = a.placementOrder := by
  simp only [Apportioner.placementOrder, h]

/-- The load, summed in placement order. -/
theorem Apportioner.load_eq_placed {a : Apportioner} (h : a.elements.length = 5) (j : Nat) :
    a.load j = ((a.placementOrder.filter (fun e => (a.element e).onIn j)).map (fun e => (a.element e).rating)).sum := by
  rw [Apportioner.load_eq h]
  exact ((a.placementOrder_perm_allElements.filter _).map _).sum_eq.symm

end Sys2Proof.Machine
end


section
/-! PROOFS. The Apportioner at a slice boundary inside a period: counting, drops, and trimming in reverse placement order (R104 to R106,
R109, R112): O23. -/

namespace Sys2Proof.Machine

/-! ### The members of a list up to one of them -/

/-- The members up to one that is there are found before the list's end. -/
theorem takeWhile_append_of_mem {l : List Nat} (l' : List Nat) {e : Nat} (h : e ∈ l) :
    (l ++ l').takeWhile (fun f => f != e) = l.takeWhile (fun f => f != e) := by
  induction l with
  | nil => exact absurd h List.not_mem_nil
  | cons x l ih =>
    by_cases hx : x = e
    · simp [hx]
    · simp [hx, ih ((List.mem_cons.mp h).resolve_left (Ne.symm hx))]

theorem takeWhile_self_prefix {l : List Nat} {e : Nat} (h : e ∈ l) : l.takeWhile (fun f => f != e) ++ [e] <+: l := by
  induction l with
  | nil => exact absurd h List.not_mem_nil
  | cons x l ih =>
    by_cases hx : x = e
    · simp [hx]
    · simpa [hx] using ih ((List.mem_cons.mp h).resolve_left (Ne.symm hx))

/-- A choice of members that takes e commutes with taking the members up to e. -/
theorem filter_upTo {p : Nat → Bool} {e : Nat} (he : p e = true) (l : List Nat) :
    (l.takeWhile (fun f => f != e) ++ [e]).filter p = (l.filter p).takeWhile (fun f => f != e) ++ [e] := by
  rw [List.filter_append, List.filter_singleton, he, cond_true]
  congr 1
  induction l with
  | nil => rfl
  | cons x l ih =>
    by_cases hx : x = e
    · simp [hx, he]
    · by_cases hp : p x = true <;> simp [hx, hp, ih]

/-! ### Trimming a list of elements (R112) -/

/-- What trimming leaves fits the budget. -/
theorem trimmed_rest_fits (rating : Nat → Nat) (budget : Nat) (l : List Nat) :
    ((l.filter (fun e => !(trimmed rating budget l (l.map rating).sum).contains e)).map rating).sum ≤ budget := by
  induction l with
  | nil => exact Nat.zero_le _
  | cons e es ih =>
    have htail : ((e :: es).map rating).sum - rating e = (es.map rating).sum := by simp
    rw [trimmed]
    split
    · next hfits => simpa using hfits
    · rw [htail, List.filter_cons_of_neg (by simp)]
      refine le_trans (List.Sublist.sum_le_sum (List.Sublist.map _ ?_) fun _ _ => Nat.zero_le _) ih
      refine List.monotone_filter_right es fun f hf => ?_
      simp only [List.contains_cons, Bool.not_eq_true', Bool.or_eq_false_iff] at hf
      rw [hf.2]; rfl

/-- Trimming from the last of a list takes exactly the members up to and with which the ratings exceed the budget. -/
theorem mem_trimmed_reverse (rating : Nat → Nat) (budget : Nat) {l : List Nat} (hl : l.Nodup) {e : Nat} :
    e ∈ trimmed rating budget l.reverse (l.map rating).sum
      ↔ e ∈ l ∧ budget < ((l.takeWhile (fun f => f != e) ++ [e]).map rating).sum := by
  induction l using List.reverseRecOn with
  | nil => simp [trimmed]
  | append_singleton l x ih =>
    obtain ⟨hl, -, hx⟩ := List.nodup_append'.mp hl
    have hnot : x ∉ l := fun hm => hx hm (List.mem_singleton_self x)
    have hsum : ((l ++ [x]).map rating).sum = (l.map rating).sum + rating x := by simp
    rw [List.reverse_append, List.reverse_singleton, List.singleton_append, trimmed, hsum, Nat.add_sub_cancel]
    by_cases he : e = x
    · subst he
      have hbefore : (l ++ [e]).takeWhile (fun f => f != e) = l := by
        rw [List.takeWhile_append_of_pos fun f hf => bne_iff_ne.mpr (ne_of_mem_of_not_mem hf hnot)]
        simp
      rw [hbefore, hsum]
      split
      · next hfits => simpa using hfits
      · next hover => simpa using hover
    · have hmem : e ∈ l ++ [x] ↔ e ∈ l := by simp [he]
      by_cases hel : e ∈ l
      · have hprefix : (l ++ [x]).takeWhile (fun f => f != e) = l.takeWhile (fun f => f != e) :=
          takeWhile_append_of_mem [x] hel
        rw [hmem, hprefix]
        split
        · next hfits =>
          have hle : ((l.takeWhile (fun f => f != e) ++ [e]).map rating).sum ≤ (l.map rating).sum :=
            ((takeWhile_self_prefix hel).sublist.map rating).sum_le_sum fun _ _ => Nat.zero_le _
          simp only [List.not_mem_nil, false_iff, not_and, Nat.not_lt]
          omega
        · rw [List.mem_cons, ih hl]
          simp [he]
      · have hnone : e ∉ trimmed rating budget l.reverse (l.map rating).sum := fun h => hel ((ih hl).mp h).1
        rw [hmem]
        split <;> simp [hel, he, hnone]

/-! ### Trimming a slice (R112) -/

/-- The elements trimmed from a slice: those on in it with which, up to and with them in placement order, the slice budget is
exceeded. -/
theorem Apportioner.mem_trimOf {a : Apportioner} (h : a.elements.length = 5) (j : Nat) {e : Nat} (he : e < 5)
    (hon : (a.element e).onIn j = true) : e ∈ a.trimOf j ↔
      a.sliceBudget < (((a.upTo e).filter (fun f => (a.element f).onIn j)).map (fun f => (a.element f).rating)).sum := by
  have hmem : e ∈ a.placementOrder.filter (fun f => (a.element f).onIn j) :=
    List.mem_filter.mpr ⟨a.mem_placementOrder_iff.mpr he, hon⟩
  rw [Apportioner.trimOf, List.filter_reverse, Apportioner.load_eq_placed h,
    mem_trimmed_reverse _ _ (a.placementOrder_nodup.filter _), and_iff_right hmem, Apportioner.upTo,
    filter_upTo (p := fun f => (a.element f).onIn j) hon]

/-- What is left on in a trimmed slice fits the slice budget. -/
theorem Apportioner.trimOf_rest_fits {a : Apportioner} (h : a.elements.length = 5) (j : Nat) :
    ((a.placementOrder.filter (fun e => !(a.trimOf j).contains e && (a.element e).onIn j)).map
      (fun e => (a.element e).rating)).sum ≤ a.sliceBudget := by
  let on := a.placementOrder.reverse.filter (fun e => (a.element e).onIn j)
  have hrev : a.placementOrder.reverse.Perm a.placementOrder := List.reverse_perm _
  have hload : (on.map (fun e => (a.element e).rating)).sum = a.load j := by
    rw [Apportioner.load_eq_placed h]
    exact ((hrev.filter _).map _).sum_eq
  have hfits := trimmed_rest_fits (fun e => (a.element e).rating) a.sliceBudget on
  rw [hload, List.filter_filter] at hfits
  refine le_trans (le_of_eq ?_) hfits
  exact ((hrev.filter _).map _).sum_eq.symm

/-! ### The elements after each of the Apportioner's steps (R104, R106, R109, R112) -/

/-- The lines seen at a boundary drop an element: HCALL deasserting those of the oven, DOOR opening RE (R109). -/
def linesDrop (prior : Option Lines) (now : Lines) (e : Nat) : Bool :=
  (decide (e < 3) && fell prior now Lines.hcall) || (decide (e = 2) && rose prior now Lines.door)

/-- The element as a drop from slice k leaves it, where there is one (R106). -/
def Element.offIf (k : Nat) (drop : Bool) (x : Element) : Element :=
  if drop then { x with on := x.on.filter (fun j => decide (j < k)), relay := false } else x

theorem Element.mem_on_offIf (k : Nat) (drop : Bool) (x : Element) (j : Nat) :
    j ∈ (x.offIf k drop).on ↔ j ∈ x.on ∧ (drop = true → j < k) := by
  cases drop <;> simp [Element.offIf]

/-- A drop touches the entries and the relay line alone. -/
theorem Element.offIf_eq (k : Nat) (drop : Bool) (x : Element) :
    x.offIf k drop = { x with on := (x.offIf k drop).on, relay := (x.offIf k drop).relay } := by
  cases drop <;> rfl

theorem Element.offIf_offIf (k : Nat) (b c : Bool) (x : Element) : (x.offIf k b).offIf k c = x.offIf k (b || c) := by
  cases b <;> cases c <;> simp [Element.offIf]

theorem Apportioner.element_dropIf (a : Apportioner) (drop : Bool) (es : List Nat) (k e : Nat) :
    (if drop then a.drop es k else a).element e = (a.element e).offIf k (drop && decide (e ∈ es)) := by
  cases drop with
  | false => rfl
  | true => simp [Apportioner.element_drop, Element.offIf]

theorem Apportioner.element_lineDrops (a : Apportioner) (prior : Option Lines) (now : Lines) (k e : Nat) :
    (a.lineDrops prior now k).element e = (a.element e).offIf k (linesDrop prior now e) := by
  have hoven : decide (e ∈ stationElements Config.OV) = decide (e < 3) :=
    decide_eq_decide.mpr (by simp only [stationElements, if_true, List.mem_cons, List.not_mem_nil, or_false]; omega)
  have hrear : decide (e ∈ [2]) = decide (e = 2) := decide_eq_decide.mpr List.mem_singleton
  rw [Apportioner.lineDrops, Apportioner.element_dropIf, Apportioner.element_dropIf, Element.offIf_offIf, hoven, hrear, linesDrop,
    Bool.and_comm, Bool.and_comm (decide (e = 2))]

/-- The Apportioner once SHED has lowered the slice budget, before any trim. -/
def Apportioner.lowered (a : Apportioner) : Apportioner := { a with sliceBudget := min a.sliceBudget a.shedBudget }

theorem Apportioner.element_shed (a : Apportioner) (k e : Nat) : (a.shed k).element e = { a.element e with
    on := (a.element e).on.filter (fun j => !(decide (k ≤ j) && (a.lowered.trimOf j).contains e)) } :=
  a.lowered.element_mapElements rfl

theorem Apportioner.element_switch (a : Apportioner) (k e : Nat) :
    (a.switch k).element e = { a.element e with relay := (a.element e).onIn k } :=
  a.element_mapElements rfl

/-! ### The whole step (R104) -/

/-- The Apportioner once the slice that ended is counted and the lines have dropped what they drop, before any trim. -/
def Apportioner.counted (prior : Option Lines) (now : Lines) (k : Nat) (a : Apportioner) : Apportioner :=
  (a.deliver (k - 1)).lineDrops prior now k

section

variable (prior : Option Lines) (now : Lines) (k : Nat) (a : Apportioner)

theorem Apportioner.counted_eq : a.counted prior now k = { a with elements := (a.counted prior now k).elements } := by
  unfold Apportioner.counted Apportioner.lineDrops
  dsimp only
  split <;> split <;> rfl

theorem Apportioner.counted_length : (a.counted prior now k).elements.length = a.elements.length := by
  unfold Apportioner.counted Apportioner.lineDrops Apportioner.drop Apportioner.deliver
  dsimp only
  split <;> split <;> simp

/-- Counting and dropping, then the trim where SHED was seen asserting, then the relays. -/
theorem Apportioner.sliceStep_counted : a.sliceStep prior now k = Apportioner.switch k
    (if rose prior now Lines.shed then (a.counted prior now k).shed k else a.counted prior now k) := rfl

/-- The step changes the elements, and the slice budget where SHED was seen asserting. -/
theorem Apportioner.sliceStep_eq : a.sliceStep prior now k = { a with
    elements := (a.sliceStep prior now k).elements
    sliceBudget := if rose prior now Lines.shed = true then min a.sliceBudget a.shedBudget else a.sliceBudget } := by
  unfold Apportioner.sliceStep Apportioner.lineDrops
  dsimp only
  split <;> split <;> split <;> rfl

theorem Apportioner.element_counted (e : Nat) : (a.counted prior now k).element e
    = Element.offIf k (linesDrop prior now e) { a.element e with
        delivered := (a.element e).delivered + if (a.element e).onIn (k - 1) then 1 else 0 } := by
  rw [Apportioner.counted, Apportioner.element_lineDrops, Apportioner.element_deliver]

/-- Counting and dropping leave an element all but its delivered count, its entries and its relay line. -/
theorem Apportioner.element_counted_eq (e : Nat) : (a.counted prior now k).element e = { a.element e with
      delivered := (a.element e).delivered + (if (a.element e).onIn (k - 1) then 1 else 0)
      on := ((a.counted prior now k).element e).on, relay := ((a.counted prior now k).element e).relay } := by
  conv_lhs => rw [Apportioner.element_counted, Element.offIf_eq, ← Apportioner.element_counted]

theorem Apportioner.mem_on_counted (e j : Nat) : j ∈ ((a.counted prior now k).element e).on
    ↔ j ∈ (a.element e).on ∧ (linesDrop prior now e = true → j < k) := by
  rw [Apportioner.element_counted, Element.mem_on_offIf]

/-- Trimming takes entries, and the relay line shows the entry of slice k; the rest of an element stands. -/
theorem Apportioner.element_sliceStep (e : Nat) : ∃ on,
    (a.sliceStep prior now k).element e = { (a.counted prior now k).element e with on := on, relay := on.contains k }
    ∧ ∀ j, j ∈ on ↔ j ∈ ((a.counted prior now k).element e).on
      ∧ (rose prior now Lines.shed = true → k ≤ j → e ∉ (a.counted prior now k).lowered.trimOf j) := by
  rw [Apportioner.sliceStep_counted, Apportioner.element_switch]
  split
  · next hrose =>
    refine ⟨_, by rw [Apportioner.element_shed]; rfl, fun j => ?_⟩
    rw [List.mem_filter]
    by_cases hj : k ≤ j <;> simp [hrose, hj]
  · next hrose => exact ⟨_, rfl, fun j => (and_iff_left fun h => absurd h hrose).symm⟩

/-- The elements on after counting and dropping: those that were on, but for the slices from k on of an element that the lines drop. -/
theorem Apportioner.onIn_counted {j : Nat} (hj : k ≤ j) (e : Nat) : ((a.counted prior now k).element e).onIn j
    = ((a.element e).onIn j && !(decide (e < 3) && fell prior now Lines.hcall) && !(decide (e = 2) && rose prior now Lines.door)) := by
  rw [Bool.eq_iff_iff, Element.onIn_iff, Apportioner.mem_on_counted, ← Element.onIn_iff, Bool.and_assoc, ← Bool.not_or,
    Bool.and_eq_true, Bool.not_eq_true', ← linesDrop]
  exact and_congr_right fun _ => ⟨fun h => Bool.eq_false_iff.mpr fun hd => Nat.not_lt.mpr hj (h hd), fun h hd => by simp [h] at hd⟩

theorem Apportioner.element_counted_rating (e : Nat) : ((a.counted prior now k).element e).rating = (a.element e).rating := by
  rw [Apportioner.element_counted_eq]

theorem Apportioner.lowered_placementOrder : (a.counted prior now k).lowered.placementOrder = a.placementOrder :=
  Apportioner.placementOrder_congr fun e => by
    show ((a.counted prior now k).element e).rank = _
    rw [Apportioner.element_counted_eq]

theorem Apportioner.element_sliceStep_rating (e : Nat) : ((a.sliceStep prior now k).element e).rating = (a.element e).rating := by
  obtain ⟨on, hy, -⟩ := a.element_sliceStep prior now k e
  rw [hy]
  exact a.element_counted_rating prior now k e

theorem Apportioner.sliceStep_length : (a.sliceStep prior now k).elements.length = a.elements.length := by
  rw [Apportioner.sliceStep_counted]
  split <;> simp [Apportioner.switch, Apportioner.shed, Apportioner.counted_length]

variable {prior now k a}

/-- From slice k on, no element of the step adds more to a slice than it did. -/
theorem Apportioner.loadIn_sliceStep_le (e j : Nat) :
    ((a.sliceStep prior now k).element e).loadIn j ≤ (a.element e).loadIn j := by
  refine Element.loadIn_mono (a.element_sliceStep_rating prior now k e) fun h => ?_
  obtain ⟨on, hy, hon⟩ := a.element_sliceStep prior now k e
  rw [hy, Element.onIn_iff, hon, Apportioner.mem_on_counted] at h
  exact Element.onIn_iff.mpr h.1.1

/-- The slice budget as lowered, for which the trim is made. -/
theorem Apportioner.lowered_sliceBudget : (a.counted prior now k).lowered.sliceBudget = min a.sliceBudget a.shedBudget := by
  rw [Apportioner.counted_eq]; rfl

/-- The elements trimmed, by the ratings up to and with them of those still on. -/
theorem Apportioner.mem_trimOf_lowered (h : a.elements.length = 5) {e j : Nat} (he : e < 5)
    (hon : ((a.counted prior now k).element e).onIn j = true) : e ∈ (a.counted prior now k).lowered.trimOf j
      ↔ min a.sliceBudget a.shedBudget < (((a.upTo e).filter (fun f => ((a.counted prior now k).element f).onIn j)).map
        (fun f => (a.element f).rating)).sum := by
  have hlen : (a.counted prior now k).lowered.elements.length = 5 := (a.counted_length prior now k).trans h
  have hrating : ∀ f, ((a.counted prior now k).lowered.element f).rating = (a.element f).rating := 
    a.element_counted_rating prior now k
  rw [Apportioner.mem_trimOf hlen j he hon, Apportioner.lowered_sliceBudget, Apportioner.upTo, Apportioner.lowered_placementOrder]
  simp only [hrating]
  rfl

/-- Where SHED was seen asserting, the load of every slice from k on fits the lowered slice budget (R112). -/
theorem Apportioner.load_sliceStep_shed (h : a.elements.length = 5) (hrose : rose prior now Lines.shed = true) {j : Nat}
    (hj : k ≤ j) : (a.sliceStep prior now k).load j ≤ min a.sliceBudget a.shedBudget := by
  have hlen : (a.counted prior now k).lowered.elements.length = 5 := (a.counted_length prior now k).trans h
  have hfits := Apportioner.trimOf_rest_fits hlen j
  have horder : (a.sliceStep prior now k).placementOrder = (a.counted prior now k).lowered.placementOrder :=
    Apportioner.placementOrder_congr fun e => by
      obtain ⟨on, hy, -⟩ := a.element_sliceStep prior now k e
      rw [hy]; rfl
  rw [← a.lowered_sliceBudget (prior := prior) (now := now) (k := k), Apportioner.load_eq_placed ((a.sliceStep_length prior now k).trans h), horder]
  refine le_of_eq_of_le (congrArg List.sum ?_) hfits
  have hon : ∀ e, ((a.sliceStep prior now k).element e).onIn j
      = (!((a.counted prior now k).lowered.trimOf j).contains e && ((a.counted prior now k).lowered.element e).onIn j) := fun e => by
    obtain ⟨on, hy, hmem⟩ := a.element_sliceStep prior now k e
    rw [Bool.eq_iff_iff, hy, Element.onIn_iff, hmem, Bool.and_eq_true, Bool.not_eq_true', ← Bool.not_eq_true,
      List.contains_iff_mem, Element.onIn_iff, and_comm]
    exact and_congr_left fun _ => ⟨fun hn => hn hrose hj, fun hn _ _ => hn⟩
  have hrating : ∀ e, ((a.sliceStep prior now k).element e).rating = ((a.counted prior now k).lowered.element e).rating := fun e =>
    (a.element_sliceStep_rating prior now k e).trans (a.element_counted_rating prior now k e).symm
  simp only [hon, hrating]

end

/-- Settles O23: the relays' share of a boundary, element by element; trimming by the ratings up to and with an element. -/
theorem sliceStepInsideAPeriod : Obligations.SliceStepInsideAPeriod := by
  refine ⟨fun prior now k a _ h => ?_, fun s => rfl⟩
  intro b on
  have hb : b = _ := a.sliceStep_eq prior now k
  have hbudget : b.sliceBudget = if rose prior now Lines.shed = true then min a.sliceBudget a.shedBudget else a.sliceBudget := by
    rw [hb]
  refine ⟨(a.sliceStep_length prior now k).trans h, by rw [hb], by rw [hb], by rw [hb], by rw [hb], by rw [hb], hbudget,
    fun e he => ?_, fun hrose j hj => ?_⟩
  · intro x y
    obtain ⟨entries, hy, hentries⟩ : ∃ entries, y = _ ∧ _ := a.element_sliceStep prior now k e
    rw [hy, a.element_counted_eq]
    refine ⟨rfl, rfl, rfl, rfl, rfl, rfl, rfl, fun j hj => ?_, fun j hj => ?_⟩
    · simp [hentries, Apportioner.mem_on_counted, hj, Nat.not_le.mpr hj, x]
    · have hon : (fun f => ((a.counted prior now k).element f).onIn j) = fun f => on f j :=
        funext fun f => a.onIn_counted prior now k hj f
      rw [hentries, ← Element.onIn_iff, congrFun hon e, hbudget]
      refine and_congr_right fun hstill => forall_congr' fun hrose => ?_
      rw [if_pos hrose, forall_prop_of_true hj, Apportioner.mem_trimOf_lowered h he ((congrFun hon e).trans hstill), hon, Nat.not_lt]
  · rw [hbudget, if_pos hrose]
    exact Apportioner.load_sliceStep_shed h hrose hj

end Sys2Proof.Machine
end


section
/-! SUPPORT. The placement of all requests: the load it leaves, the shape of each element's slices, and what it does not look at (R102,
R103). -/

namespace Sys2Proof.Machine

/-! ### Placement one by one -/

theorem Apportioner.placeAll_eq (a : Apportioner) : a.placeAll = a.placementOrder.foldl Apportioner.place a.cleared := by
  rw [Apportioner.placeAll, Apportioner.mapElements_const]
  exact congrArg (List.foldl Apportioner.place a.cleared) a.cleared_placementOrder

/-- Placement changes the elements alone, and their number not. -/
theorem Apportioner.foldl_place_eq (es : List Nat) (a : Apportioner) :
    es.foldl Apportioner.place a = { a with elements := (es.foldl Apportioner.place a).elements }
      ∧ (es.foldl Apportioner.place a).elements.length = a.elements.length := by
  induction es generalizing a with
  | nil => exact ⟨rfl, rfl⟩
  | cons e es ih =>
    obtain ⟨hrest, hlen⟩ := ih (a.place e)
    exact ⟨hrest, hlen.trans List.length_set⟩

theorem Apportioner.placeAll_frame (a : Apportioner) : a.placeAll = { a with elements := a.placeAll.elements }
    ∧ a.placeAll.elements.length = a.elements.length := by
  rw [Apportioner.placeAll_eq]
  obtain ⟨hrest, hlen⟩ := Apportioner.foldl_place_eq a.placementOrder a.cleared
  exact ⟨hrest, hlen.trans (List.length_map _)⟩

/-! ### The load of the plan (R102) -/

/-- An element is given only slices with room for its rating. -/
theorem Apportioner.mem_slicesFor {a : Apportioner} {x : Element} {j : Nat} (h : j ∈ a.slicesFor x) :
    j < 100 ∧ a.load j + x.rating ≤ a.periodBudget := by
  unfold Apportioner.slicesFor at h
  split at h
  · exact absurd h List.not_mem_nil
  · simpa using List.mem_filter.mp (List.mem_of_mem_take h)

/-- Placing an element keeps every slice within the period budget. -/
theorem Apportioner.load_place_le {a : Apportioner} (h : a.elements.length = 5) (hfits : ∀ j, a.load j ≤ a.periodBudget)
    {e : Nat} (he : e < 5) (j : Nat) : (a.place e).load j ≤ a.periodBudget := by
  have hmem : e ∈ Finset.range 5 := Finset.mem_range.mpr he
  have hothers : ∑ f ∈ (Finset.range 5).erase e, ((a.place e).element f).loadIn j
      = ∑ f ∈ (Finset.range 5).erase e, (a.element f).loadIn j :=
    Finset.sum_congr rfl fun f hf => by rw [a.element_place_other (Finset.ne_of_mem_erase hf)]
  have hbefore : a.load j = (a.element e).loadIn j + ∑ f ∈ (Finset.range 5).erase e, (a.element f).loadIn j := by
    rw [Apportioner.load_eq_sum h, Finset.add_sum_erase _ (fun f => (a.element f).loadIn j) hmem]
  have hafter : (a.place e).load j
      = ((a.place e).element e).loadIn j + ∑ f ∈ (Finset.range 5).erase e, (a.element f).loadIn j := by
    rw [Apportioner.load_eq_sum (List.length_set.trans h), ← Finset.add_sum_erase _ _ hmem, hothers]
  have hslices : ((a.place e).element e).on = a.slicesFor (a.element e) := by rw [a.element_place_same (h ▸ he)]
  have hrating : ((a.place e).element e).rating = (a.element e).rating := by rw [a.element_place_same (h ▸ he)]
  rw [hafter, Element.loadIn, hrating]
  split
  · next hon =>
    obtain ⟨-, hroom⟩ := Apportioner.mem_slicesFor (hslices ▸ Element.onIn_iff.mp hon)
    omega
  · have := hfits j
    omega

theorem Apportioner.load_foldl_place_le {es : List Nat} (hes : ∀ e ∈ es, e < 5) {a : Apportioner} (h : a.elements.length = 5)
    (hfits : ∀ j, a.load j ≤ a.periodBudget) (j : Nat) : (es.foldl Apportioner.place a).load j ≤ a.periodBudget := by
  induction es generalizing a with
  | nil => exact hfits j
  | cons e es ih =>
    exact ih (fun f hf => hes f (List.mem_cons_of_mem _ hf)) (a := a.place e) (List.length_set.trans h)
      (Apportioner.load_place_le h hfits (hes e List.mem_cons_self))

/-- Every slice of the plan fits the period budget. -/
theorem Apportioner.load_placeAll_le {a : Apportioner} (h : a.elements.length = 5) (j : Nat) :
    a.placeAll.load j ≤ a.periodBudget := by
  have hempty : ∀ j, a.cleared.load j = 0 := fun j => by
    simp [Apportioner.load, Apportioner.cleared, List.filter_map, Function.comp_def, Element.onIn]
  rw [Apportioner.placeAll_eq]
  exact Apportioner.load_foldl_place_le (a := a.cleared) (fun e => a.mem_placementOrder_iff.mp) ((List.length_map _).trans h)
    (fun j => (hempty j).trans_le (Nat.zero_le _)) j

/-! ### The slices of each element (R102, R103) -/

theorem Apportioner.element_foldl_place_other {es : List Nat} {e : Nat} (he : e ∉ es) (a : Apportioner) :
    (es.foldl Apportioner.place a).element e = a.element e := by
  induction es generalizing a with
  | nil => rfl
  | cons f es ih =>
    obtain ⟨hne, hnot⟩ := not_or.mp (mt List.mem_cons.mpr he)
    exact (ih hnot (a.place f)).trans (a.element_place_other hne)

/-- An element as some placement leaves it: slices of the period, no more than it requested, none at a rating above the budget. -/
structure Element.PlacedIn (budget : Nat) (x y : Element) : Prop where
  element : y = { x with
    on := y.on, grant := y.on.length, blocked := decide (0 < x.request) && decide (budget < x.rating) }
  count : y.on.length ≤ x.request
  slices : ∀ j ∈ y.on, j < 100
  none_over : budget < x.rating → y.on = []

theorem Apportioner.place_placedIn (a : Apportioner) {e : Nat} (h : e < a.elements.length) :
    (a.element e).PlacedIn a.periodBudget ((a.place e).element e) := by
  rw [a.element_place_same h]
  obtain ⟨hcount, -⟩ := a.slicesFor_shape (a.element e)
  exact ⟨rfl, hcount, fun j hj => (Apportioner.mem_slicesFor hj).1, fun hover => if_pos hover⟩

theorem Apportioner.foldl_place_placedIn {es : List Nat} (hes : es.Nodup) {a : Apportioner} {e : Nat} (he : e ∈ es)
    (h : e < a.elements.length) : (a.element e).PlacedIn a.periodBudget ((es.foldl Apportioner.place a).element e) := by
  induction es generalizing a with
  | nil => exact absurd he List.not_mem_nil
  | cons f es ih =>
    obtain ⟨hnot, hnodup⟩ := List.nodup_cons.mp hes
    rw [List.foldl_cons]
    by_cases hef : e = f
    · subst hef
      rw [Apportioner.element_foldl_place_other hnot]
      exact a.place_placedIn h
    · rw [← a.element_place_other hef]
      exact ih hnodup (a := a.place f) ((List.mem_cons.mp he).resolve_left hef) (List.length_set.symm ▸ h)

theorem Apportioner.placeAll_placedIn {a : Apportioner} (h : a.elements.length = 5) {e : Nat} (he : e < 5) :
    (a.element e).PlacedIn a.periodBudget (a.placeAll.element e) := by
  have hcleared : a.cleared.element e = { a.element e with on := [], grant := 0, blocked := false } := by
    have := a.element_mapElements_lt (fun _ x => { x with on := [], grant := 0, blocked := false }) (h ▸ he)
    rwa [Apportioner.mapElements_const] at this
  have hplaced := Apportioner.foldl_place_placedIn a.placementOrder_nodup (a := a.cleared) (a.mem_placementOrder_iff.mpr he)
    ((List.length_map _).trans h ▸ he)
  rw [← Apportioner.placeAll_eq, hcleared] at hplaced
  exact ⟨hplaced.element, hplaced.count, hplaced.slices, hplaced.none_over⟩

/-! ### What placement does not look at -/

/-- The Apportioner without delivered counts and relay lines, which placement does not look at. -/
def Apportioner.planOnly (a : Apportioner) : Apportioner :=
  { a with elements := a.elements.map (fun x => { x with delivered := 0, relay := false }) }

theorem Apportioner.element_planOnly (a : Apportioner) (e : Nat) :
    a.planOnly.element e = { a.element e with delivered := 0, relay := false } := by
  have h := a.element_mapElements (f := fun _ x => { x with delivered := 0, relay := false }) (e := e) rfl
  rwa [Apportioner.mapElements_const] at h

theorem Apportioner.load_planOnly (a : Apportioner) (j : Nat) : a.planOnly.load j = a.load j := by
  simp only [Apportioner.load, Apportioner.planOnly, List.filter_map, List.map_map]
  rfl

theorem Apportioner.planOnly_placementOrder (a : Apportioner) : a.planOnly.placementOrder = a.placementOrder :=
  Apportioner.placementOrder_congr fun e => by rw [Apportioner.element_planOnly]

theorem Apportioner.cleared_planOnly (a : Apportioner) : a.cleared.planOnly = a.planOnly.cleared := by
  simp only [Apportioner.cleared, Apportioner.planOnly, List.map_map]
  rfl

theorem Apportioner.place_planOnly (a : Apportioner) (e : Nat) : (a.place e).planOnly = a.planOnly.place e := by
  have hwalk : a.planOnly.walk (a.planOnly.element e) = a.walk (a.element e) := by
    simp only [Apportioner.walk, Apportioner.load_planOnly, Apportioner.element_planOnly]
    rfl
  simp only [Apportioner.place, hwalk]
  simp only [Apportioner.element_planOnly]
  simp only [Apportioner.planOnly, List.map_set]
  rfl

theorem Apportioner.foldl_place_planOnly (es : List Nat) (a : Apportioner) :
    (es.foldl Apportioner.place a).planOnly = es.foldl Apportioner.place a.planOnly := by
  induction es generalizing a with
  | nil => rfl
  | cons e es ih => rw [List.foldl_cons, ih, Apportioner.place_planOnly, List.foldl_cons]

/-- The plan depends on the ratings, the ranks, the requests and the budget alone. -/
theorem Apportioner.placeAll_planOnly_congr {a b : Apportioner} (h : b.cleared.planOnly = a.cleared.planOnly) :
    b.placeAll.planOnly = a.placeAll.planOnly := by
  have hplan : ∀ c : Apportioner,
      c.placeAll.planOnly = c.cleared.planOnly.placementOrder.foldl Apportioner.place c.cleared.planOnly := fun c => by
    rw [Apportioner.placeAll_eq, Apportioner.foldl_place_planOnly, Apportioner.planOnly_placementOrder,
      Apportioner.cleared_placementOrder]
  rw [hplan, hplan, h]

/-- Clearing the plan undoes a placement. -/
theorem Apportioner.place_cleared (a : Apportioner) (e : Nat) : (a.place e).cleared = a.cleared := by
  have hset : a.cleared.elements.set e { a.element e with on := [], grant := 0, blocked := false } = a.cleared.elements := by
    by_cases he : e < a.cleared.elements.length
    · have hself : a.cleared.elements[e] = { a.element e with on := [], grant := 0, blocked := false } := by
        simp only [Apportioner.cleared, List.length_map] at he
        simp [Apportioner.cleared, Apportioner.element, he]
      rw [← hself, List.set_getElem_self]
    · exact List.set_eq_of_length_le (Nat.not_lt.mp he)
  show { a with elements := (a.elements.set e _).map _ } = a.cleared
  rw [List.map_set]
  exact congrArg (fun l => { a with elements := l }) hset

theorem Apportioner.placeAll_cleared (a : Apportioner) : a.placeAll.cleared = a.cleared := by
  have hfold : ∀ (es : List Nat) (b : Apportioner), (es.foldl Apportioner.place b).cleared = b.cleared := by
    intro es
    induction es with
    | nil => exact fun _ => rfl
    | cons e es ih => exact fun b => (ih (b.place e)).trans (b.place_cleared e)
  have hcleared : a.cleared.cleared = a.cleared := by
    simp only [Apportioner.cleared, List.map_map]
    rfl
  rw [Apportioner.placeAll_eq, hfold, hcleared]

end Sys2Proof.Machine
end


section
/-! PROOFS. The opening of a period (R46, R50, R96, R98, R102 to R104): O20. -/

namespace Sys2Proof.Machine

/-! ### The Apportioner at an opening (R96, R98) -/

/-- The Apportioner with the settings in force copied, the requests sampled and the budgets set: steps 1 to 3 of R98. -/
def Apportioner.forPeriod (u : SettingsUnit) (t : Table) (lines : Lines) (a : Apportioner) : Apportioner :=
  ((a.copySettings u).sample t lines).setBudgets lines.shed

section

variable (u : SettingsUnit) (t : Table) (lines : Lines) {a : Apportioner} (h : a.elements.length = 5)

theorem Apportioner.forPeriod_length : (a.forPeriod u t lines).elements.length = a.elements.length := by
  simp [Apportioner.forPeriod, Apportioner.setBudgets, Apportioner.sample, Apportioner.copySettings]

theorem Apportioner.openPeriod_eq : a.openPeriod u t lines = { a.forPeriod u t lines with
    elements := (a.forPeriod u t lines).placeAll.elements.map (fun x => { x with delivered := 0, relay := x.onIn 0 }) } := by
  obtain ⟨hframe, -⟩ := (a.forPeriod u t lines).placeAll_frame
  show (((a.forPeriod u t lines).placeAll.mapElements _).switch 0) = _
  rw [Apportioner.switch, Apportioner.mapElements_const, Apportioner.mapElements_const, hframe, List.map_map]
  rfl

theorem Apportioner.openPeriod_length : (a.openPeriod u t lines).elements.length = a.elements.length := by
  obtain ⟨-, hlen⟩ := (a.forPeriod u t lines).placeAll_frame
  rw [Apportioner.openPeriod_eq, List.length_map, hlen, Apportioner.forPeriod_length]

theorem Apportioner.element_openPeriod (e : Nat) : (a.openPeriod u t lines).element e
    = { (a.forPeriod u t lines).placeAll.element e with
        delivered := 0, relay := ((a.forPeriod u t lines).placeAll.element e).onIn 0 } := by
  have hmap := (a.forPeriod u t lines).placeAll.element_mapElements (e := e)
    (f := fun _ x => { x with delivered := 0, relay := x.onIn 0 }) rfl
  rw [Apportioner.mapElements_const] at hmap
  rw [Apportioner.openPeriod_eq]
  exact hmap

/-- The opening's plan is the placement's, but for delivered counts and relay lines. -/
theorem Apportioner.openPeriod_planOnly :
    (a.openPeriod u t lines).planOnly = (a.forPeriod u t lines).placeAll.planOnly := by
  obtain ⟨hframe, -⟩ := (a.forPeriod u t lines).placeAll_frame
  rw [Apportioner.openPeriod_eq, hframe]
  simp only [Apportioner.planOnly, List.map_map]
  rfl

/-- Placing the period's requests again gives the same plan. -/
theorem Apportioner.openPeriod_placed_again : (a.openPeriod u t lines).placeAll.planOnly = (a.openPeriod u t lines).planOnly := by
  have hcleared : (a.openPeriod u t lines).cleared.planOnly = (a.forPeriod u t lines).cleared.planOnly := by
    rw [Apportioner.cleared_planOnly, Apportioner.openPeriod_planOnly, ← Apportioner.cleared_planOnly, Apportioner.placeAll_cleared]
  rw [Apportioner.placeAll_planOnly_congr hcleared, Apportioner.openPeriod_planOnly]

theorem Apportioner.element_placed_again (e : Nat) :
    let x := (a.openPeriod u t lines).element e
    let y := (a.openPeriod u t lines).placeAll.element e
    y.on = x.on ∧ y.grant = x.grant ∧ y.blocked = x.blocked := by
  have hsame := congrArg (fun b => b.element e) (a.openPeriod_placed_again u t lines)
  simp only [Apportioner.element_planOnly, Element.mk.injEq] at hsame
  obtain ⟨hon, -, hgrant, -, hblocked, -⟩ := hsame
  exact ⟨hon, hgrant, hblocked⟩

include h

theorem Apportioner.element_forPeriod {e : Nat} (he : e < 5) : (a.forPeriod u t lines).element e
    = { a.element e with rating := u.rating e, rank := u.rank e, request := requestOf t lines e } := by
  have hcopy := a.element_mapElements_lt (fun e x => { x with rating := u.rating e, rank := u.rank e }) (h ▸ he)
  have hlen : (a.copySettings u).elements.length = 5 := by simp [Apportioner.copySettings, h]
  have hsample := (a.copySettings u).element_mapElements_lt (fun e x => { x with request := requestOf t lines e })  (hlen ▸ he)
  refine hsample.trans ?_
  rw [show (a.copySettings u).element e = _ from hcopy]

/-- The element as the opening leaves it: the settings in force, its request, slices of the period, no delivered count. -/
theorem Apportioner.openPeriod_placedIn {e : Nat} (he : e < 5) : Element.PlacedIn (a.openPeriod u t lines).periodBudget
    { a.element e with
      rating := u.rating e, rank := u.rank e, request := requestOf t lines e, delivered := 0
      relay := ((a.openPeriod u t lines).element e).onIn 0 }
    ((a.openPeriod u t lines).element e) := by
  have hplaced := Apportioner.placeAll_placedIn ((a.forPeriod_length u t lines).trans h) he
  rw [Apportioner.element_forPeriod u t lines h he] at hplaced
  rw [Apportioner.element_openPeriod, Apportioner.openPeriod_eq]
  refine ⟨?_, hplaced.count, hplaced.slices, hplaced.none_over⟩
  conv_lhs => rw [hplaced.element]
  rfl

/-- Every slice of the new plan fits the period budget. -/
theorem Apportioner.load_openPeriod_le (j : Nat) : (a.openPeriod u t lines).load j ≤ (a.openPeriod u t lines).periodBudget := by
  have hbudget : (a.openPeriod u t lines).periodBudget = (a.forPeriod u t lines).periodBudget := by rw [Apportioner.openPeriod_eq]
  rw [← Apportioner.load_planOnly, Apportioner.openPeriod_planOnly, Apportioner.load_planOnly, hbudget]
  exact Apportioner.load_placeAll_le ((a.forPeriod_length u t lines).trans h) j

end

/-! ### The standings (R46) -/

theorem Record.openStanding_eq (r : Record) : r.openStanding = { r with standing := match r.state with
    | .running => .whole
    | .paused => .void
    | .armed | .queued | .held | .ended => r.standing } := by
  cases hs : r.state <;> simp only [Record.openStanding, hs]
  all_goals rw [← hs]

theorem Record.openStanding_openStanding (r : Record) : r.openStanding.openStanding = r.openStanding := by
  cases hs : r.state <;> simp [Record.openStanding, hs]

/-- The table once the opening has set the standings of the electric heads. -/
def Table.openStandings (t : Table) : Table :=
  (t.modify (t.head Config.OV) Record.openStanding).modify (t.head Config.GR) Record.openStanding

theorem Table.openStandings_mapped (t : Table) : t.Mapped t.openStandings
    (fun k r => if k = t.head 6 ∨ k = t.head 7 then r.openStanding else r) := by
  refine ((t.modify_mapped (t.head 6) _).trans (Table.modify_mapped _ (t.head 7) _)).congr fun k r _ => ?_
  by_cases h7 : k = t.head 7
  · rw [if_pos h7, if_pos (show k = t.head 6 ∨ k = t.head 7 from .inr h7)]
    split
    · exact r.openStanding_openStanding
    · rfl
  · simp only [h7, if_false, or_false]

theorem without_settings (s : State) (w : Work) : (s.without w).settings = s.settings := rfl

/-- The opening's share: the standings, and the Apportioner's opening on the table with them. -/
theorem openPeriod_share (s : State) : (s.without .openPeriod).openPeriod = { s.without .openPeriod with
    table := s.table.openStandings
    app := s.app.openPeriod s.settings s.table.openStandings s.time.lines } := rfl

/-- A RUNNING electric head has the standing WHOLE, a PAUSED one VOID. -/
theorem Table.openStandings_head {t : Table} {st : Nat} (hst : st ∈ [6, 7]) {r : Record} (hr : t.openStandings.headRec? st = some r) :
    (r.state = .running → r.standing = .whole) ∧ (r.state = .paused → r.standing = .void) := by
  rw [Table.headRec?, t.openStandings_mapped.head] at hr
  obtain ⟨q, -, rfl⟩ := t.openStandings_mapped.rec?_some hr
  have hhead : t.head st = t.head 6 ∨ t.head st = t.head 7 := by
    rcases List.mem_cons.mp hst with rfl | h
    · exact .inl rfl
    · exact .inr (by rw [List.mem_singleton.mp h])
  rw [if_pos hhead]
  cases hs : q.state <;> simp [Record.openStanding, hs]

/-! ### PERIOD_BOUNDARY (R98) -/

/-- What each share of some work keeps, all of it keeps. -/
theorem takeEach_preserves {α : Type} {f : State → α} {ws : List Work} (h : ∀ w ∈ ws, ∀ s : State, f (s.takeOne w) = f s) (s : State) :
    f (s.takeEach ws) = f s := by
  induction ws generalizing s with
  | nil => rfl
  | cons w ws ih =>
    exact (ih (fun v hv => h v (List.mem_cons_of_mem _ hv)) (s.takeOne w)).trans (h w List.mem_cons_self s)

theorem takeEngine_settings (s : State) : s.takeEngine.settings = s.settings := by
  have hone : ∀ w ∈ Work.closePeriod :: engineWork, ∀ s : State, (s.takeOne w).settings = s.settings := by
    intro w hw s
    cases h : s.awaits w with
    | false => rw [takeOne_absent h]
    | true =>
      rw [takeOne_awaited h]
      rcases List.mem_cons.mp hw with rfl | hw
      · rfl
      · rcases mem_engineWork.mp hw with ⟨k, -, rfl⟩ | rfl
        · exact (countRecord_sameHost _ k).settings
        · show (State.advanceClock _).settings = _
          rw [advanceClock_eq]
          rfl
  exact (takeEach_preserves (f := State.settings) (fun w hw => hone w (List.mem_cons_of_mem _ hw)) _).trans
    (hone _ List.mem_cons_self s)

/-- The opening comes after the closing and all of the Record Engine's work. -/
theorem take_openPeriod {s : State} (h : s.awaits .openPeriod = true) :
    s.take .openPeriod = { s.takeEngine.without .openPeriod with
      table := s.takeEngine.table.openStandings
      app := s.takeEngine.app.openPeriod s.settings s.takeEngine.table.openStandings s.time.lines } := by
  have hstill : s.takeEngine.awaits .openPeriod = true := (takeEngine_took s).leaves _ (by simp [mem_engineWork]) rfl (by simp) h
  have hlines : s.takeEngine.time.lines = s.time.lines := by rw [(takeEngine_sameBoard s).time]
  rw [← takeEngine_settings s, ← hlines, ← openPeriod_share, State.take, if_pos h]
  exact takeOne_awaited hstill

theorem take_openPeriod_took {s : State} (h : s.awaits .openPeriod = true) :
    s.Took (s.take .openPeriod) (.closePeriod :: engineWork ++ [.openPeriod]) := by
  rw [State.take, if_pos h]
  exact (takeEngine_took s).trans (takeOne_took _ .openPeriod)

/-- Where the opening alone is left to take, nothing comes before it. -/
theorem takeEngine_opening_left {s : State} (h : s.todo = [.openPeriod]) : s.takeEngine = s := by
  have hnone : ∀ w, w ≠ .openPeriod → s.awaits w = false := fun w hw => by simp [State.awaits, h, hw]
  refine takeEngine_done (hnone _ (by simp)) fun w hw => hnone w ?_
  rcases mem_engineWork.mp hw with ⟨k, -, rfl⟩ | rfl <;> simp

/-- Settles O20: the opening's steps one after another, on the table that the Record Engine leaves. -/
theorem periodBoundaryOpensThePeriod : Obligations.PeriodBoundaryOpensThePeriod := by
  intro s h hfive
  have htook := take_openPeriod_took h
  have htake := take_openPeriod h
  have hlen : s.takeEngine.app.elements.length = 5 := (takeEngine_elements s).trans hfive
  have htable : (s.take .openPeriod).table = s.takeEngine.table.openStandings := by rw [htake]
  have happ : (s.take .openPeriod).app
      = s.takeEngine.app.openPeriod s.settings s.takeEngine.table.openStandings s.time.lines := by rw [htake]
  refine ⟨s.take .openPeriod, rfl, htook.taken _ (by simp) rfl, htook.taken _ (by simp) rfl,
    fun k hk => htook.taken _ (by simp [mem_engineWork, hk]) rfl, ?_, ?_, ?_, ?_, ?_, ?_, fun j _ => ?_, fun e he => ?_,
    fun st hst r hr => ?_, fun hleft => ?_⟩
  · rw [htake]
    dsimp only
    rw [without_settings, takeEngine_settings]
  · rw [happ, Apportioner.openPeriod_length, hlen]
  · rw [happ, Apportioner.openPeriod_eq]; rfl
  · rw [happ, Apportioner.openPeriod_eq]; rfl
  · rw [happ, Apportioner.openPeriod_eq]; rfl
  · rw [happ, Apportioner.openPeriod_eq]; rfl
  · rw [happ]
    exact Apportioner.load_openPeriod_le _ _ _ hlen j
  · obtain ⟨hx, hcount, hslices, hnone⟩ :=
      Apportioner.openPeriod_placedIn s.settings s.takeEngine.table.openStandings s.time.lines hlen he
    obtain ⟨hon, hgrant, hblocked⟩ :=
      s.takeEngine.app.element_placed_again s.settings s.takeEngine.table.openStandings s.time.lines e
    rw [← happ] at hx hcount hslices hnone hon hgrant hblocked
    rw [htable]
    intro x
    have hrating : x.rating = s.settings.rating e := congrArg Element.rating hx
    have hrequest : x.request = requestOf s.takeEngine.table.openStandings s.time.lines e := congrArg Element.request hx
    have hlength : x.grant = x.on.length := congrArg Element.grant hx
    have hmark : x.blocked = true ↔ 0 < x.request ∧ (s.take .openPeriod).app.periodBudget < x.rating := by
      rw [hrating, hrequest, congrArg Element.blocked hx, Bool.and_eq_true, decide_eq_true_eq, decide_eq_true_eq]
    refine ⟨hrating, congrArg Element.rank hx, hrequest, congrArg Element.delivered hx, hlength, hlength ▸ hrequest ▸ hcount, hslices,
      hmark, fun hover => ?_, congrArg Element.relay hx, hon, hgrant, hblocked⟩
    obtain ⟨-, hover⟩ := hmark.mp hover
    rw [hlength, hnone (hrating ▸ hover), List.length_nil]
  · rw [htable] at hr
    exact Table.openStandings_head hst hr
  · rw [htable, takeEngine_opening_left hleft]
    have hmapped := s.table.openStandings_mapped
    refine ⟨hmapped.heads, hmapped.queues, fun k => ?_⟩
    exact (hmapped.rec? k).trans (Option.map_congr fun r _ => if_congr Iff.rfl r.openStanding_eq rfl)

end Sys2Proof.Machine
end


section
/-! PROOFS. Every step keeps each remaining slice of the plan within the slice budget (R102, R104, R106, R112): O15. -/

namespace Sys2Proof.Machine

/-! ### Changes that keep the loads within the budget -/

/-- The loads of the second state fit its slice budget where those of the first do. -/
def State.KeepsLoads (s t : State) : Prop := s.LoadsFit → t.LoadsFit

namespace State.KeepsLoads

theorem refl (s : State) : s.KeepsLoads s := id

theorem trans {s t u : State} (h : s.KeepsLoads t) (g : t.KeepsLoads u) : s.KeepsLoads u := fun hs => g (h hs)

theorem ite {s t u : State} {c : Prop} [Decidable c] (h : s.KeepsLoads t) (g : s.KeepsLoads u) :
    s.KeepsLoads (if c then t else u) := by
  split
  · exact h
  · exact g

theorem foldl {α : Type} {f : State → α → State} (h : ∀ (s : State) (a : α), s.KeepsLoads (f s a)) (l : List α) (s : State) :
    s.KeepsLoads (l.foldl f s) := by
  induction l generalizing s with
  | nil => exact refl s
  | cons a l ih => exact (h s a).trans (ih (f s a))

/-- The number of the slice, the plan and the slice budget stand, and no opening that is to be taken goes. -/
theorem of_app {s t : State} (happ : t.app = s.app) (hslice : t.time.slice = s.time.slice) (hsecond : t.time.second = s.time.second)
    (hopen : t.awaits .openPeriod = false → s.awaits .openPeriod = false) : s.KeepsLoads t := fun h => by
  refine ⟨happ ▸ h.five, hslice ▸ h.slice, hsecond ▸ h.second, fun hnone j hj => ?_⟩
  rw [TimeBase.sliceNumber, hslice, hsecond] at hj
  rw [happ]
  exact h.fits (hopen hnone) j hj

/-- The Apportioner, the Time Base and the agenda stand. -/
theorem of_eq {s t : State} (happ : t.app = s.app) (htime : t.time = s.time) (htodo : t.todo = s.todo) : s.KeepsLoads t :=
  .of_app happ (by rw [htime]) (by rw [htime]) fun h => by rwa [State.awaits, htodo] at h

/-- The agenda loses other shares than the opening, or gains some. -/
theorem of_todo {s : State} {ws : List Work} (h : .openPeriod ∈ s.todo → .openPeriod ∈ ws) : s.KeepsLoads (s.withTodo ws) :=
  .of_app rfl rfl rfl fun hnone => Bool.eq_false_iff.mpr fun hs =>
    Bool.eq_false_iff.mp hnone (awaits_iff.mpr (h (awaits_iff.mp hs)))

/-- The Apportioner's plan is no heavier under the same slice budget. -/
theorem of_loads {s : State} {a : Apportioner} (hlen : a.elements.length = s.app.elements.length)
    (hbudget : a.sliceBudget = s.app.sliceBudget)
    (hload : s.app.elements.length = 5 → ∀ e, e < 5 → ∀ j, (a.element e).loadIn j ≤ (s.app.element e).loadIn j) :
    s.KeepsLoads (s.withApp a) := fun h => by
  refine ⟨hlen.trans h.five, h.slice, h.second, fun hnone j hj hlt => ?_⟩
  show a.load j ≤ a.sliceBudget
  rw [hbudget]
  exact (Apportioner.load_mono h.five (hlen.trans h.five) fun e he => hload h.five e he j).trans (h.fits hnone j hj hlt)

end State.KeepsLoads

/-! ### Drops and the Apportioner's shares -/

theorem Apportioner.loadIn_drop_le (a : Apportioner) (es : List Nat) (k e j : Nat) :
    ((a.drop es k).element e).loadIn j ≤ (a.element e).loadIn j := by
  rw [Apportioner.element_drop]
  split
  · exact Element.loadIn_mono rfl fun h => Element.onIn_iff.mpr (List.mem_filter.mp (Element.onIn_iff.mp h)).1
  · exact le_rfl

/-- A drop lightens the plan (R106). -/
theorem dropElements_keepsLoads (s : State) (es : List Nat) (k : Nat) : s.KeepsLoads (s.dropElements es k) :=
  .of_loads (s.app.mapElements_length _) rfl fun _ e _ => s.app.loadIn_drop_le es k e

/-- The relays' share lightens the plan, and trims it where it lowers the slice budget (R104, R112). -/
theorem relays_keepsLoads (s : State) : s.KeepsLoads (s.perform .relays) := fun h => by
  have hstep := s.app.sliceStep_eq s.time.prior s.time.lines s.time.sliceNumber
  have hlen := s.app.sliceStep_length s.time.prior s.time.lines s.time.sliceNumber
  refine ⟨hlen.trans h.five, h.slice, h.second, fun hnone j hj hlt => ?_⟩
  show Apportioner.load _ j ≤ (s.app.sliceStep s.time.prior s.time.lines s.time.sliceNumber).sliceBudget
  rw [congrArg Apportioner.sliceBudget hstep]
  dsimp only
  split
  · next hrose => exact Apportioner.load_sliceStep_shed h.five hrose hj
  · exact (Apportioner.load_mono h.five (hlen.trans h.five) fun e _ => Apportioner.loadIn_sliceStep_le e j).trans
      (h.fits hnone j hj hlt)

/-- The closing counts a slice, and changes no entry (R97). -/
theorem closePeriod_keepsLoads (s : State) : s.KeepsLoads (s.perform .closePeriod) :=
  .of_loads s.app.close_length rfl fun _ e _ j => by
    rw [Apportioner.element_close]
    exact Element.loadIn_mono rfl id

/-- The opening places a plan that fits, whatever was before (R102). -/
theorem openPeriod_loadsFit {s : State} (h : s.app.elements.length = 5) (hslice : s.time.slice < 10) (hsecond : s.time.second < 10) :
    s.openPeriod.LoadsFit where
  five := (Apportioner.openPeriod_length _ _ _).trans h
  slice := hslice
  second := hsecond
  fits _ j _ _ := by
    have hfits := Apportioner.load_openPeriod_le s.settings s.table.openStandings s.time.lines h j
    have hbudget : (s.app.openPeriod s.settings s.table.openStandings s.time.lines).sliceBudget
        = (s.app.openPeriod s.settings s.table.openStandings s.time.lines).periodBudget := by
      rw [Apportioner.openPeriod_eq]; rfl
    rw [← hbudget] at hfits
    exact hfits

/-! ### Work on records -/

theorem withTable_keepsLoads (s : State) (t : Table) : s.KeepsLoads (s.withTable t) := .of_eq rfl rfl rfl

theorem modify_keepsLoads (s : State) (k : Nat) (f : Record → Record) : s.KeepsLoads (s.modify k f) := .of_eq rfl rfl rfl

theorem follow_keepsLoads (s : State) (st : Nat) : s.KeepsLoads (s.follow st) := by
  rw [follow_eq]
  exact .of_eq rfl rfl rfl

theorem promote_keepsLoads (s : State) (st : Nat) : s.KeepsLoads (s.promote st) := by
  rw [promote_eq]
  exact .of_eq rfl rfl rfl

theorem place_keepsLoads (s : State) (k : Nat) : s.KeepsLoads (s.place k) := by
  obtain ⟨t, b, h⟩ := place_onTable s k
  rw [h]
  exact .of_eq rfl rfl rfl

theorem settleFrom_keepsLoads {s t : State} (h : s.KeepsLoads t) (b : State) : s.KeepsLoads (settleFrom b t) := by
  rw [settleFrom_eq]
  exact h.trans (.of_eq rfl rfl rfl)

theorem endStage_keepsLoads (s : State) (k j : Nat) : s.KeepsLoads (s.endStage k j) := by
  unfold State.endStage
  split
  · exact .refl s
  · next r hr =>
    refine .ite ?_ ?_
    · rw [nextStage_frame hr]
      exact (dropElements_keepsLoads s _ j).trans (.of_eq rfl rfl rfl)
    · rw [endRecord_frame hr]
      exact (dropElements_keepsLoads s _ j).trans (.of_eq rfl rfl rfl)

/-- A retirement drops the elements of a head, and takes no share off the agenda (R29, R106). -/
theorem retire_keepsLoads (s : State) (k : Nat) (promotes : Bool) (exempt : List Nat) :
    s.KeepsLoads (s.retire k promotes exempt) := by
  cases hr : s.table.rec? k with
  | none => rw [retire_absent hr]; exact .refl s
  | some r =>
    have hremoved : s.KeepsLoads (s.removed k r exempt) := by
      have hforget : ∀ u : State, u.KeepsLoads (u.forget k) := fun u =>
        .of_todo fun h => List.mem_filter.mpr ⟨h, by simp⟩
      have hreleased : s.KeepsLoads (s.released k r exempt) := by
        unfold State.released
        rw [detachFrom_eq]
        exact .trans (.ite (dropElements_keepsLoads s _ _) (.refl s)) (.of_eq rfl rfl rfl)
      exact (hreleased.trans (withTable_keepsLoads _ _)).trans (hforget _)
    rw [retire_eq hr]
    exact .ite (.ite (hremoved.trans (promote_keepsLoads _ _))
      ((hremoved.trans (withTable_keepsLoads _ _)).trans (follow_keepsLoads _ _))) hremoved

theorem retireAll_keepsLoads (s : State) (ks : List Nat) (promotes : Bool) : s.KeepsLoads (s.retireAll ks promotes) :=
  .foldl (fun s k => retire_keepsLoads s k promotes ks) ks s

theorem leaveStarted_keepsLoads (s t : State) : t.KeepsLoads (s.leaveStarted t) :=
  .of_app rfl rfl rfl fun h => Bool.eq_false_iff.mpr fun ht => Bool.eq_false_iff.mp h
    ((leaveStarted_took s t).leaves .openPeriod (by simp) rfl (by simp) ht)

/-! ### The shares of a boundary's work (R84) -/

theorem countRecord_keepsLoads (s : State) (k : Nat) : s.KeepsLoads (s.countRecord k) := by
  cases hr : s.table.rec? k with
  | none => simp only [State.countRecord, hr]; exact .refl s
  | some r =>
    by_cases hrun : r.state = .running
    · have hwritten : s.KeepsLoads (s.countWritten k r) := by
        have hput : s.KeepsLoads (s.withTable (s.table.put k (some (s.counted r).1))) := .of_eq rfl rfl rfl
        exact .ite ((hput.trans (endStage_keepsLoads _ _ _)).trans (leaveStarted_keepsLoads _ _)) hput
      rw [countRecord_running hr hrun]
      exact settleFrom_keepsLoads (.ite (hwritten.trans (modify_keepsLoads _ _ _)) hwritten) s
    · rw [countRecord_not_running hr hrun]
      exact .refl s

theorem judgeStation_keepsLoads (s : State) (st : Nat) : s.KeepsLoads (s.judgeStation st) := by
  unfold State.judgeStation
  split
  · exact .refl s
  · exact .ite (settleFrom_keepsLoads (((modify_keepsLoads s _ _).trans (modify_keepsLoads _ _ _)).trans (follow_keepsLoads _ _)) s)
      (modify_keepsLoads s _ _)

theorem advanceClock_keepsLoads (s : State) : s.KeepsLoads s.advanceClock := by
  refine .of_app ?_ ?_ ?_ fun h => Bool.eq_false_iff.mpr fun hs => Bool.eq_false_iff.mp h
    ((advanceClock_took s).leaves .openPeriod (by simp) rfl (by simp) hs)
  all_goals rw [advanceClock_eq]

/-- Every share but the opening, whatever is left of the boundary. -/
theorem perform_keepsLoads (s : State) {w : Work} (hw : w ≠ .openPeriod) : s.KeepsLoads (s.perform w) := by
  cases w with
  | count k => exact countRecord_keepsLoads s k
  | judge st => exact judgeStation_keepsLoads s st
  | relays => exact relays_keepsLoads s
  | closePeriod => exact closePeriod_keepsLoads s
  | openPeriod => exact absurd rfl hw
  | alertTick => exact .ite (.of_eq rfl rfl rfl) (.of_eq rfl rfl rfl)
  | syncTick => exact .of_eq rfl rfl rfl
  | clock => exact advanceClock_keepsLoads s
  | released _ => exact .refl s
  | refresh => exact .ite (.of_eq rfl rfl rfl) (.of_eq rfl rfl rfl)
  | loadEnd =>
    show s.KeepsLoads s.endLoad
    rw [endLoad_eq]
    exact .of_eq rfl rfl rfl

theorem takeOne_keepsLoads (s : State) (w : Work) : s.KeepsLoads (s.takeOne w) := by
  refine .ite ?_ (.refl s)
  by_cases hw : w = .openPeriod
  · subst hw
    exact fun h => openPeriod_loadsFit (s := s.without .openPeriod) h.five h.slice h.second
  · have hwithout : s.KeepsLoads (s.without w) := .of_todo fun h => List.mem_filter.mpr ⟨h, by simpa using Ne.symm hw⟩
    exact hwithout.trans (perform_keepsLoads _ hw)

theorem takeEngine_keepsLoads (s : State) : s.KeepsLoads s.takeEngine :=
  (takeOne_keepsLoads s _).trans (.foldl takeOne_keepsLoads _ _)

theorem take_keepsLoads (s : State) (w : Work) : s.KeepsLoads (s.take w) := by
  refine .ite ?_ (.refl s)
  cases w with
  | count k => exact (State.KeepsLoads.ite (takeOne_keepsLoads s _) (.refl s)).trans (takeOne_keepsLoads (s.readyToCount k) _)
  | openPeriod => exact (takeEngine_keepsLoads s).trans (takeOne_keepsLoads _ _)
  | refresh =>
    exact ((State.KeepsLoads.ite (.refl s) (takeEngine_keepsLoads s)).trans (takeOne_keepsLoads _ _)).trans (takeOne_keepsLoads _ _)
  | released _ => exact .refl s
  | judge _ | relays | closePeriod | alertTick | syncTick | clock | loadEnd => exact takeOne_keepsLoads s _

/-! ### The boundary itself (R82, R98) -/

/-- A period boundary sets out the opening. -/
theorem makeBoundary_awaits_openPeriod {s : State} {lines : Lines} (h : (s.time.boundary lines).sliceNumber = 0) :
    (s.makeBoundary lines).awaits .openPeriod = true := by
  have hperiod : (s.time.boundary lines).atPeriod = true := by simpa [TimeBase.atPeriod] using h
  have htodo : (s.makeBoundary lines).todo = State.agenda ((s.withTime (s.time.boundary lines)).withAnn _) := rfl
  rw [awaits_iff, htodo, State.agenda]
  simp [hperiod]

/-- A boundary begins the next slice, or a period. -/
theorem TimeBase.boundary_sliceNumber (t : TimeBase) (hslice : t.slice < 10) (lines : Lines) :
    (t.boundary lines).sliceNumber = 0 ∨ (t.boundary lines).sliceNumber = t.sliceNumber + 1 := by
  simp only [TimeBase.boundary, TimeBase.sliceNumber]
  split
  · right; omega
  · split
    · right; omega
    · left; rfl

/-- A boundary, where no opening is left over, leaves a slice behind or sets an opening out. -/
theorem makeBoundary_loadsFit {s : State} (h : s.LoadsFit) (hnone : s.awaits .openPeriod = false) (lines : Lines) :
    (s.makeBoundary lines).LoadsFit := by
  obtain ⟨hfive, hslice, hsecond, hfits⟩ := h
  have htime : (s.makeBoundary lines).time = s.time.boundary lines := rfl
  refine ⟨hfive, ?_, ?_, fun hleft j hj hlt => ?_⟩
  · rw [htime, TimeBase.boundary]
    dsimp only
    split <;> omega
  · rw [htime, TimeBase.boundary]
    dsimp only
    split
    · exact hsecond
    · split <;> omega
  · rw [htime] at hj
    rcases s.time.boundary_sliceNumber hslice lines with hzero | hnext
    · exact absurd (makeBoundary_awaits_openPeriod hzero) (Bool.eq_false_iff.mp hleft)
    · exact hfits hnone j (by omega) hlt

/-- Taking a share sets no other out. -/
theorem take_adds_none (s : State) (w : Work) {v : Work} (hv : isNote v = false) (h : (s.take w).awaits v = true) :
    s.awaits v = true := by
  have hone : ∀ {u : State} {w : Work}, (u.takeOne w).awaits v = true → u.awaits v = true := (takeOne_took _ _).adds_none v hv
  have hengine : ∀ {u : State}, u.takeEngine.awaits v = true → u.awaits v = true := (takeEngine_took _).adds_none v hv
  unfold State.take at h
  split at h
  · cases w with
    | count k =>
      have hready := hone h
      unfold State.readyToCount at hready
      split at hready
      · exact hone hready
      · exact hready
    | openPeriod => exact hengine (hone h)
    | refresh =>
      have hbefore := hone (hone h)
      split at hbefore
      · exact hbefore
      · exact hengine hbefore
    | released _ => exact h
    | judge _ | relays | closePeriod | alertTick | syncTick | clock | loadEnd => exact hone h
  · exact h

/-- Once the opening has had its turn, it is not to be taken. -/
theorem foldl_take_openPeriod {ws : List Work} {s : State} (h : .openPeriod ∈ ws ∨ s.awaits .openPeriod = false) :
    (ws.foldl State.take s).awaits .openPeriod = false := by
  induction ws generalizing s with
  | nil => exact h.resolve_left List.not_mem_nil
  | cons w ws ih =>
    refine ih ?_
    cases hs : s.awaits .openPeriod with
    | false => exact .inr (Bool.eq_false_iff.mpr fun hw => Bool.eq_false_iff.mp hs (take_adds_none s w rfl hw))
    | true =>
      rcases List.mem_cons.mp (h.resolve_right (by simp [hs])) with rfl | hmem
      · exact .inr ((take_openPeriod_took hs).taken _ (by simp) rfl)
      · exact .inl hmem

theorem finishBoundary_awaits_openPeriod (s : State) : s.finishBoundary.awaits .openPeriod = false := by
  unfold State.finishBoundary
  split
  · next hempty => simp [State.awaits, List.isEmpty_iff.mp hempty]
  · exact foldl_take_openPeriod (.inl (by simp [defaultOrder]))

/-- What is left of the boundary before is taken first, so the opening of a period comes before the next boundary. -/
theorem takeBoundary_keepsLoads (s : State) (lines : Lines) (first later : List Work) :
    s.KeepsLoads (s.takeBoundary lines first later) := by
  have hfinish : s.KeepsLoads s.finishBoundary := .ite (.refl s) (.foldl take_keepsLoads _ s)
  have hmade : s.KeepsLoads (s.finishBoundary.makeBoundary lines) := fun h =>
    makeBoundary_loadsFit (hfinish h) (finishBoundary_awaits_openPeriod s) lines
  exact (hmade.trans (.foldl take_keepsLoads first _)).trans (.foldl take_keepsLoads _ _)

theorem crystalCycle_keepsLoads (s : State) (lines : Lines) (first later : List Work) :
    s.KeepsLoads (s.crystalCycle lines first later) :=
  .ite (.refl s) (.ite (takeBoundary_keepsLoads s _ _ _) (.of_app rfl rfl rfl id))

/-! ### Commands (R139) -/

theorem setPermission_keepsLoads (s : State) (st v : Nat) : s.KeepsLoads (s.setPermission st v) := by
  have hset : s.KeepsLoads (s.withSettings (s.settings.withValue (0x50 + st) v)) := .of_eq rfl rfl rfl
  exact .ite (settleFrom_keepsLoads (hset.trans (retireAll_keepsLoads _ _ _)) s) hset

theorem setItem_keepsLoads (s : State) (id v : Nat) : s.KeepsLoads (s.setItem id v) := by
  refine .ite (.of_eq rfl rfl rfl) (.ite ?_ (.ite (setPermission_keepsLoads s _ v) (.of_eq rfl rfl rfl)))
  rw [setPriority_eq]
  exact .of_eq rfl rfl rfl

theorem stationReset_keepsLoads (s : State) (st : Nat) : s.KeepsLoads (s.stationReset st) :=
  settleFrom_keepsLoads ((retireAll_keepsLoads s _ _).trans (dropElements_keepsLoads _ _ _)) s

/-- A SOFT RESET drops every element, and takes notes alone off the agenda (R115). -/
theorem softReset_keepsLoads (s : State) : s.KeepsLoads s.softReset := by
  have hdrop : s.KeepsLoads (s.withApp (s.app.softReset s.commandSlice)) := by
    refine .of_loads (by simp [Apportioner.softReset, Apportioner.drop]) rfl fun _ e he j => ?_
    rw [Apportioner.element_softReset _ _ he]
    exact Element.loadIn_mono rfl fun h => Element.onIn_iff.mpr (List.mem_filter.mp (Element.onIn_iff.mp h)).1
  have hnotes : s.KeepsLoads ((s.withApp (s.app.softReset s.commandSlice)).withTodo (s.todo.filter (fun w => !isNote w))) :=
    hdrop.trans (.of_todo fun h => List.mem_filter.mpr ⟨h, rfl⟩)
  exact hnotes.trans (.of_eq rfl rfl rfl)

theorem createChecked_keepsLoads (s : State) (p : Port) (c : CreateParams) (sc : StartCondition) :
    LeadsTo s.KeepsLoads (s.createChecked p c sc) := by
  refine .ite (.error _) (.ite (.error _) (.ite (.error _) ?_))
  split
  · exact .error _
  · exact .ite (.error _) (.ok (.ite ((withTable_keepsLoads s _).trans (place_keepsLoads _ _)) (withTable_keepsLoads s _)))

theorem create_keepsLoads (p : Port) (bytes : List Byte) (s : State) : LeadsTo s.KeepsLoads (createBody p bytes s) := by
  unfold createBody
  split
  · exact .error _
  · refine .ite ?_ (.error _)
    split
    · exact .error _
    · exact .allowed (createChecked_keepsLoads s p _ _)

/-- SET CLOCK writes the reading and CLOCK_VALID, no count of slices (R86). -/
theorem setClock_keepsLoads (p : Port) (bytes : List Byte) (s : State) : LeadsTo s.KeepsLoads (setClockBody p bytes s) :=
  .ite (.error _) (.guarded (.ok (.trans (t := s.withTime { s.time with clock := _, valid := true }) (.of_app rfl rfl rfl id)
    (.foldl place_keepsLoads _ _))))

theorem adjust_keepsLoads (p : Port) (bytes : List Byte) (s : State) : LeadsTo s.KeepsLoads (adjustBody p bytes s) := by
  refine .ite (.error _) (.withRecord fun r => .allowed ?_)
  split
  · exact .error _
  · exact .ok (settleFrom_keepsLoads (modify_keepsLoads s _ _) s)

theorem ack_keepsLoads (p : Port) (bytes : List Byte) (s : State) : LeadsTo s.KeepsLoads (ackBody p bytes s) := by
  unfold ackBody
  dsimp only
  split
  · exact .error _
  · exact .withRecord fun r => .allowed (.ok (settleFrom_keepsLoads (.ite (retire_keepsLoads s _ _ _) (modify_keepsLoads s _ _)) s))

theorem setItemBody_keepsLoads (p : Port) (bytes : List Byte) (s : State) : LeadsTo s.KeepsLoads (setItemBody p bytes s) := by
  refine .panelOnly (.notStoring ?_)
  dsimp only
  split
  · exact .error _
  · exact .ite (.ok (setItem_keepsLoads s _ _)) (.error _)

theorem getItem_keepsLoads (p : Port) (bytes : List Byte) (s : State) : LeadsTo s.KeepsLoads (getItemBody p bytes s) := by
  unfold getItemBody
  dsimp only
  split
  · exact .error _
  · exact .ok (.refl s)

theorem retireBody_keepsLoads (p : Port) (bytes : List Byte) (s : State) : LeadsTo s.KeepsLoads (retireBody p bytes s) :=
  .withRecord fun _ => .allowed (.guarded (.ok (settleFrom_keepsLoads (retire_keepsLoads s _ _ _) s)))

theorem pause_keepsLoads (p : Port) (bytes : List Byte) (s : State) : LeadsTo s.KeepsLoads (pauseBody p bytes s) :=
  .withRecord fun _ => .allowed (.inState (.ok
    (((modify_keepsLoads s _ _).trans (dropElements_keepsLoads _ _ _)).trans (follow_keepsLoads _ _))))

theorem resume_keepsLoads (p : Port) (bytes : List Byte) (s : State) : LeadsTo s.KeepsLoads (resumeBody p bytes s) :=
  .withRecord fun _ => .allowed (.inState (.ok ((modify_keepsLoads s _ _).trans (follow_keepsLoads _ _))))

theorem setLevel_keepsLoads (p : Port) (bytes : List Byte) (s : State) : LeadsTo s.KeepsLoads (setLevelBody p bytes s) :=
  .ite (.error _) (.withRecord fun _ => .ite (.error _)
    (.allowed (.inState (.ok ((modify_keepsLoads s _ _).trans (follow_keepsLoads _ _))))))

theorem skip_keepsLoads (p : Port) (bytes : List Byte) (s : State) : LeadsTo s.KeepsLoads (skipBody p bytes s) :=
  .withRecord fun _ => .allowed (.inState (.guarded (.ok
    (settleFrom_keepsLoads ((endStage_keepsLoads s _ _).trans (modify_keepsLoads _ _ _)) s))))

theorem start_keepsLoads (p : Port) (bytes : List Byte) (s : State) : LeadsTo s.KeepsLoads (startBody p bytes s) :=
  .withRecord fun _ => .allowed (.inState (.ok (place_keepsLoads s _)))

/-! ### The Command Unit -/

theorem takeCommand_keepsLoads (s : State) (p : Port) : s.KeepsLoads (s.takeCommand p) := .of_eq (by simp) (by simp) (by simp)

theorem reply_keepsLoads (s : State) (p : Port) (r : Reply) : s.KeepsLoads (s.reply p r) := .of_eq (by simp) (by simp) (by simp)

theorem conclude_keepsLoads {s : State} {v : Verdict} (h : LeadsTo s.KeepsLoads v) (p : Port) (tag : Byte) :
    s.KeepsLoads (s.conclude p tag v) := by
  cases v with
  | error c => exact reply_keepsLoads s p _
  | ok x =>
    have hmark : x.1.KeepsLoads (s.afterCommand x.1) := .of_eq rfl rfl rfl
    exact ((h x.1 x.2 rfl).trans hmark).trans (reply_keepsLoads _ p _)

/-- A command keeps the loads within the budget where its own work does. -/
theorem execute_keepsLoads {code : Nat} {body : Port → List Byte → State → Verdict} {s t : State}
    (he : execute code body s = .next t) (h : ∀ p bytes u, LeadsTo u.KeepsLoads (body p bytes u)) : s.KeepsLoads t := by
  rw [← outcome_next_inj he]
  split
  · exact .refl s
  · next p bytes _ =>
    refine .ite ((takeCommand_keepsLoads s p).trans (conclude_keepsLoads ?_ p _)) (.refl s)
    exact .ite (.error _) (.ite (.error _) (h p bytes (s.takeCommand p)))

theorem command_keepsLoads {c : Instr} {code : Nat} (hcode : commandCode c = some code) {s t : State} (h : exec c s = .next t) :
    s.KeepsLoads t := by
  cases c with
  | create => exact execute_keepsLoads h create_keepsLoads
  | retire => exact execute_keepsLoads h retireBody_keepsLoads
  | pause => exact execute_keepsLoads h pause_keepsLoads
  | resume => exact execute_keepsLoads h resume_keepsLoads
  | adjust => exact execute_keepsLoads h adjust_keepsLoads
  | setLevel => exact execute_keepsLoads h setLevel_keepsLoads
  | skip => exact execute_keepsLoads h skip_keepsLoads
  | start => exact execute_keepsLoads h start_keepsLoads
  | query => exact execute_keepsLoads h fun _ _ u => .withRecord fun _ => .ok (.refl u)
  | list => exact execute_keepsLoads h fun _ _ u => .ite (.error _) (.ok (.refl u))
  | ack => exact execute_keepsLoads h ack_keepsLoads
  | silence => exact execute_keepsLoads h fun _ _ _ => .ite (.ok (.of_eq rfl rfl rfl)) (.error _)
  | setClock => exact execute_keepsLoads h setClock_keepsLoads
  | window => exact execute_keepsLoads h fun _ _ _ => .panelOnly (.ite (.ok (.of_eq rfl rfl rfl)) (.error _))
  | setItem => exact execute_keepsLoads h setItemBody_keepsLoads
  | getItem => exact execute_keepsLoads h getItem_keepsLoads
  | storeSettings => exact execute_keepsLoads h fun _ _ _ => .panelOnly (.notStoring (.ok (.of_eq rfl rfl rfl)))
  | nextAlert | settingsStatus => exact execute_keepsLoads h fun _ _ u => .ok (.refl u)
  | grant =>
    exact execute_keepsLoads h fun _ _ u => .panelOnly (.notStoring (.ite (.error _) (.ok (setPermission_keepsLoads u _ _))))
  | softReset => exact execute_keepsLoads h fun _ _ u => .panelOnly (.ok (softReset_keepsLoads u))
  | stationReset => exact execute_keepsLoads h fun _ _ u => .panelOnly (.ite (.error _) (.ok (stationReset_keepsLoads u _)))
  | _ => exact absurd hcode (by simp [commandCode])

theorem refusal_keepsLoads (s : State) (p : Port) (tag : Byte) (c : ResultCode) :
    s.KeepsLoads ((s.takeCommand p).conclude p tag (.error c)) :=
  (takeCommand_keepsLoads s p).trans (conclude_keepsLoads (.error c) p tag)

theorem badCommand_keepsLoads {s t : State} (h : exec .badCommand s = .next t) : s.KeepsLoads t := by
  rw [← outcome_next_inj h]
  split
  · exact .refl s
  · split
    · exact .refl s
    · exact .ite (.refl s) (refusal_keepsLoads s _ _ _)

theorem commandWithoutCode_keepsLoads {s t : State} (h : exec .commandWithoutCode s = .next t) : s.KeepsLoads t := by
  rw [← outcome_next_inj h]
  split
  · exact .refl s
  · split
    · exact .refl s
    · exact refusal_keepsLoads s _ _ _

/-! ### Every event -/

/-- The plan after power-on is empty (R94). -/
theorem loadsFit_of_powerUp {t : State} (happ : t.app = .powerUp) (htime : t.time = .powerUp) : t.LoadsFit where
  five := by rw [happ]; rfl
  slice := by rw [htime]; decide
  second := by rw [htime]; decide
  fits _ j _ _ := by rw [happ, powerUp_load]; exact Nat.zero_le _

theorem exec_keepsLoads (c : Instr) {s t : State} (h : exec c s = .next t) : s.KeepsLoads t := by
  have hstart : ∀ radr status m, s.KeepsLoads (s.startPart radr status m) := fun _ _ _ _ => loadsFit_of_powerUp rfl rfl
  cases hcode : commandCode c with
  | some code => exact command_keepsLoads hcode h
  | none =>
    cases c with
    | powerOn radr status landed => exact outcome_next_inj h ▸ hstart _ _ _
    | resetnLow landed => exact outcome_next_inj h ▸ .ite (.refl s) fun _ => loadsFit_of_powerUp rfl rfl
    | resetnRelease radr status => exact outcome_next_inj h ▸ .ite (hstart _ _ _) (.refl s)
    | sliceBoundary lines first later =>
      have hlast : s.KeepsLoads s.toLastCycle := .ite (.refl s) (.of_app rfl rfl rfl id)
      exact outcome_next_inj h ▸ hlast.trans (crystalCycle_keepsLoads _ _ _ _)
    | loadEntry => exact outcome_next_inj h ▸ .ite (.refl s) (.of_eq (by simp) (by simp) (by simp))
    | secondBoundary => exact outcome_next_inj h ▸ (take_keepsLoads s _).trans (take_keepsLoads _ _)
    | loadEnd | periodBoundary => exact outcome_next_inj h ▸ take_keepsLoads s _
    | syncFall | delayDue _ | offsetDue _ | stageEnd _ | recordEnd _ | flameLoss _ | soundTimeout =>
      exact outcome_next_inj h ▸ .ite (take_keepsLoads s _) (.refl s)
    | badCommand => exact badCommand_keepsLoads h
    | commandWithoutCode => exact commandWithoutCode_keepsLoads h
    | storeWriteComplete | storeWriteTimeout _ =>
      rw [← outcome_next_inj h]
      split
      · exact .of_eq (by simp) (by simp) (by simp)
      all_goals exact .refl s
    | commandFrameEnd bytes =>
      rw [← outcome_next_inj h]
      split
      · exact .ite (.refl s) (.of_eq rfl rfl rfl)
      all_goals exact .refl s
    | readWindowEnd => exact outcome_next_inj h ▸ .ite (.refl s) (.ite (.of_eq rfl rfl rfl) (.of_eq rfl rfl rfl))
    | pcsFall | frameTypeByte _ | fetchLengthByte | windowEntry | portStatusByte _ | i2cAddress _ _ | remoteWriteFirstByte _
    | remoteWriteOverlong | remoteWriteEnd _ | pcsRise | readTransactionEnd =>
      exact outcome_next_inj h ▸ .ite (.refl s) (.of_eq rfl rfl rfl)
    | _ => exact absurd hcode (by simp [commandCode])

/-- Settles O15: drops and trims lighten the plan, the opening places one that fits, and a boundary leaves a slice behind or sets an
opening out. -/
theorem stepKeepsLoadsWithinBudget : Obligations.StepKeepsLoadsWithinBudget := by
  intro s t hs h
  have hkeeps : s.KeepsLoads t := by
    unfold step at h
    cases hp : s.pending with
    | nil =>
      rw [hp] at h
      rw [← outcome_next_inj h]
      exact crystalCycle_keepsLoads s _ _ _
    | cons c rest =>
      rw [hp] at h
      exact (State.KeepsLoads.of_eq (s := s) (t := { s with pending := rest }) rfl rfl rfl).trans (exec_keepsLoads c h)
  exact hkeeps hs

end Sys2Proof.Machine
end


section
/-! SUPPORT. What an event leaves of the annunciator and of what it looks at, up to the Alert Unit's part of the event; and that the
Alert Unit's part restores the order of the contexts and what an evaluation leaves behind (R120 to R125). -/

namespace Sys2Proof.Machine

/-! ### Relations between states that chain -/

/-- The relation holds of no change, and of one change after another. -/
structure Chains (R : State → State → Prop) : Prop where
  refl : ∀ s, R s s
  trans : ∀ {s t u}, R s t → R t u → R s u

namespace Chains

variable {R : State → State → Prop}

theorem ite (_ : Chains R) {s t u : State} {c : Prop} [Decidable c] (h : R s t) (g : R s u) : R s (if c then t else u) := by
  split
  · exact h
  · exact g

theorem foldl (hR : Chains R) {α : Type} {f : State → α → State} (h : ∀ s a, R s (f s a)) (l : List α) (s : State) :
    R s (l.foldl f s) := by
  induction l generalizing s with
  | nil => exact hR.refl s
  | cons a l ih => exact hR.trans (h s a) (ih (f s a))

/-- What every share keeps, a share with what the rules put before it keeps (R50, R90, R98). -/
theorem take (hR : Chains R) (one : ∀ s w, R s (s.takeOne w)) (s : State) (w : Work) : R s (s.take w) := by
  have hengine : ∀ s : State, R s s.takeEngine := fun s => hR.trans (one s _) (hR.foldl one _ _)
  refine hR.ite ?_ (hR.refl s)
  cases w with
  | count k => exact hR.trans (hR.ite (one s _) (hR.refl s)) (one (s.readyToCount k) _)
  | openPeriod => exact hR.trans (hengine s) (one _ _)
  | refresh => exact hR.trans (hR.trans (hR.ite (hR.refl s) (hengine s)) (one _ _)) (one _ _)
  | released _ => exact hR.refl s
  | judge _ | relays | closePeriod | alertTick | syncTick | clock | loadEnd => exact one s _

/-- What every share and the making of a boundary keep, a whole boundary keeps (R82, R84). -/
theorem takeBoundary (hR : Chains R) (one : ∀ s w, R s (s.takeOne w)) (made : ∀ s lines, R s (s.makeBoundary lines))
    (s : State) (lines : Lines) (first later : List Work) : R s (s.takeBoundary lines first later) := by
  have hfinish : R s s.finishBoundary := hR.ite (hR.refl s) (hR.foldl (hR.take one) _ s)
  exact hR.trans (hR.trans (hR.trans hfinish (made _ lines)) (hR.foldl (hR.take one) first _)) (hR.foldl (hR.take one) _ _)

end Chains

/-! ### Contexts up to the muted flag -/

/-- What a context presents, at the priority captured: the context with its muted flag set. -/
def Context.silent (c : Context) : Context := { c with muted := true }

theorem Context.same_of_silent {c d : Context} (h : c.silent = d.silent) :
    c.slot = d.slot ∧ c.kind = d.kind ∧ c.priority = d.priority := by
  simpa [Context.silent] using h

/-- The second annunciator holds the contexts of the first, up to the muted flag of the current one. -/
structure Annunciator.SameContexts (a b : Annunciator) : Prop where
  current : b.current.map Context.silent = a.current.map Context.silent
  stack : b.stack = a.stack

namespace Annunciator.SameContexts

variable {a b c : Annunciator}

theorem of_eq (h : b = a) : a.SameContexts b := ⟨by rw [h], by rw [h]⟩

theorem trans (h : a.SameContexts b) (g : b.SameContexts c) : a.SameContexts c :=
  ⟨g.current.trans h.current, g.stack.trans h.stack⟩

theorem ordered (h : a.SameContexts b) (ha : a.Ordered) : b.Ordered := by
  refine ha.of_same ?_ h.stack
  have hp := congrArg (Option.map Context.priority) h.current
  rwa [Option.map_map, Option.map_map] at hp

/-- A current context is the other's, up to the muted flag. -/
theorem of_current (h : a.SameContexts b) {x : Context} (hx : b.current = some x) :
    ∃ y, a.current = some y ∧ y.silent = x.silent := by
  have hm := h.current
  rw [hx] at hm
  exact Option.map_eq_some_iff.mp hm.symm

theorem symm (h : a.SameContexts b) : b.SameContexts a := ⟨h.current.symm, h.stack.symm⟩

end Annunciator.SameContexts

theorem Annunciator.mute_sameContexts (a : Annunciator) : a.SameContexts a.mute :=
  ⟨by cases h : a.current <;> simp [Annunciator.mute, h, Context.silent], rfl⟩

/-- A tick counts, advances the pattern or mutes (R126, R127). -/
theorem Annunciator.tick_sameContexts (u : SettingsUnit) (a : Annunciator) : a.SameContexts (a.tick u) := by
  have hcount : a.SameContexts a.count := ⟨by rw [a.count_current.1], a.count_current.2⟩
  have hadvance : a.count.SameContexts a.count.advance := ⟨by rw [a.count.advance_current.1], a.count.advance_current.2⟩
  have hmarks : ∀ b : Annunciator, b.SameContexts { b with ousted := none } := fun b => ⟨rfl, rfl⟩
  rcases a.tick_cases u with ⟨-, h⟩ | ⟨-, h⟩
  · exact h ▸ (hcount.trans hadvance).trans (hmarks _)
  · exact h ▸ (hcount.trans a.count.mute_sameContexts).trans (hmarks _)

/-! ### Before the Alert Unit's part of an event -/

/-- The annunciator and what it looks at, the flags aside: the contexts, the priorities and the loader status stand, the end of the
load is not set out, and while the load runs no record comes into an empty table (R36, R140). -/
structure State.AnnStands (s t : State) : Prop where
  contexts : s.ann.SameContexts t.ann
  priority : ∀ kind, t.settings.priority kind = s.settings.priority kind
  loading : t.loading = s.loading
  load_work : t.awaits .loadEnd = true → s.awaits .loadEnd = true
  load_empty : s.loading = true → (∀ k, s.table.rec? k = none) → ∀ k, t.table.rec? k = none

/-- The flags stand as well: the event has nothing for the Alert Unit (R121). -/
structure State.FlagsStand (s t : State) : Prop extends s.AnnStands t where
  flags : ∀ k kind, t.table.hasAlert k kind = s.table.hasAlert k kind

theorem State.AnnStands.chains : Chains State.AnnStands where
  refl _ := ⟨.of_eq rfl, fun _ => rfl, rfl, id, fun _ => id⟩
  trans h g := ⟨h.contexts.trans g.contexts, fun kind => (g.priority kind).trans (h.priority kind), g.loading.trans h.loading,
    h.load_work ∘ g.load_work, fun hl he => g.load_empty (h.loading.trans hl) (h.load_empty hl he)⟩

theorem State.FlagsStand.chains : Chains State.FlagsStand where
  refl s := ⟨State.AnnStands.chains.refl s, fun _ _ => rfl⟩
  trans h g := ⟨State.AnnStands.chains.trans h.toAnnStands g.toAnnStands, fun k kind => (g.flags k kind).trans (h.flags k kind)⟩

namespace State.AnnStands

theorem refl (s : State) : s.AnnStands s := chains.refl s
theorem trans {s t u : State} (h : s.AnnStands t) (g : t.AnnStands u) : s.AnnStands u := chains.trans h g
theorem ite {s t u : State} {c : Prop} [Decidable c] (h : s.AnnStands t) (g : s.AnnStands u) :
    s.AnnStands (if c then t else u) := chains.ite h g

/-- The table changes and gains no record, the agenda may lose work. -/
theorem of_table {s t : State} (hann : t.ann = s.ann) (hset : t.settings = s.settings) (htodo : ∀ w ∈ t.todo, w ∈ s.todo)
    (htable : ∀ k, s.table.rec? k = none → t.table.rec? k = none) : s.AnnStands t where
  contexts := .of_eq hann
  priority _ := by rw [hset]
  loading := by rw [State.loading, hset]; rfl
  load_work h := awaits_iff.mpr (htodo _ (awaits_iff.mp h))
  load_empty _ he k := htable k (he k)

end State.AnnStands

namespace State.FlagsStand

theorem refl (s : State) : s.FlagsStand s := chains.refl s
theorem trans {s t u : State} (h : s.FlagsStand t) (g : t.FlagsStand u) : s.FlagsStand u := chains.trans h g
theorem ite {s t u : State} {c : Prop} [Decidable c] (h : s.FlagsStand t) (g : s.FlagsStand u) :
    s.FlagsStand (if c then t else u) := chains.ite h g

/-- The slots stand, the agenda may lose work. -/
theorem of_slots {s t : State} (hann : t.ann = s.ann) (hset : t.settings = s.settings) (htodo : ∀ w ∈ t.todo, w ∈ s.todo)
    (htable : ∀ k, t.table.rec? k = s.table.rec? k) : s.FlagsStand t :=
  ⟨.of_table hann hset htodo fun k h => (htable k).trans h, fun k kind => by rw [Table.hasAlert, htable]; rfl⟩

/-- Other blocks change. -/
theorem of_eq {s t : State} (hann : t.ann = s.ann) (hset : t.settings = s.settings) (htodo : t.todo = s.todo)
    (htable : t.table = s.table) : s.FlagsStand t :=
  .of_slots hann hset (fun _ h => htodo ▸ h) fun _ => by rw [htable]

/-- Only marks of the annunciator, its timer, its phase or muted flags change. -/
theorem of_contexts {s : State} {a : Annunciator} (h : s.ann.SameContexts a) : s.FlagsStand (s.withAnn a) :=
  ⟨⟨h, fun _ => rfl, rfl, id, fun _ => id⟩, fun _ _ => rfl⟩

end State.FlagsStand

/-! ### What an evaluation leaves behind, kept -/

/-- The alerts of the part in tie-break order: by slot, and then by kind (R119). -/
def allAlerts : List (Nat × AlertKind) := allSlots.flatMap (fun k => AlertKind.all.map (Prod.mk k))

/-- The alert's flag is set on a visible station, at a priority above 0. -/
def Table.isPending (t : Table) (u : SettingsUnit) (visible : Nat → Bool) (a : Nat × AlertKind) : Bool :=
  (t.rec? a.1).any (fun r => visible r.station && r.hasAlert a.2) && decide (1 ≤ u.priority a.2)

theorem pendingAlerts_eq (t : Table) (u : SettingsUnit) (visible : Nat → Bool) :
    pendingAlerts t u visible = allAlerts.filter (t.isPending u visible) := by
  rw [allAlerts, List.filter_flatMap]
  refine congrArg (fun f => allSlots.flatMap f) (funext fun k => ?_)
  rw [List.filter_map]
  cases hr : t.rec? k with
  | none => simp [Function.comp_def, Table.isPending, hr]
  | some r => cases hv : visible r.station <;> simp [Function.comp_def, Table.isPending, hr, hv]

theorem bestAlert_congr {t t' : Table} {u u' : SettingsUnit} (hflags : ∀ k kind, t'.hasAlert k kind = t.hasAlert k kind)
    (hpriority : ∀ kind, u'.priority kind = u.priority kind) :
    bestAlert t' u' (fun _ => true) = bestAlert t u (fun _ => true) := by
  have hbetter : betterAlert u' = betterAlert u := by
    funext best a
    cases best with
    | none => rfl
    | some b => simp only [betterAlert, hpriority]
  have hany : ∀ (t : Table) (a : Nat × AlertKind), (t.rec? a.1).any (fun r => true && r.hasAlert a.2) = t.hasAlert a.1 a.2 :=
    fun t a => by cases hr : t.rec? a.1 <;> simp [Table.hasAlert, hr]
  have hpending : t'.isPending u' (fun _ => true) = t.isPending u (fun _ => true) := by
    funext a
    rw [Table.isPending, Table.isPending, hany, hany, hflags, hpriority]
  rw [bestAlert, bestAlert, pendingAlerts_eq, pendingAlerts_eq, hbetter, hpending]

/-- The Alert Unit has nothing to do where the flags stand. -/
theorem State.Settled.of_flagsStand {s t : State} (hs : s.Settled) (h : s.FlagsStand t) : t.Settled where
  alive c hc := by
    have halive : ∀ d : Context, d.silent = c.silent → d.alive s.table s.settings = true → c.alive t.table t.settings = true := by
      intro d hd hdalive
      obtain ⟨hslot, hkind, -⟩ := Context.same_of_silent hd
      rwa [Context.alive, h.flags, h.priority, ← hslot, ← hkind]
    rcases List.mem_append.mp hc with hcur | hsaved
    · obtain ⟨d, hd, hsilent⟩ := h.contexts.of_current (Option.mem_toList.mp hcur)
      exact halive d hsilent (hs.alive d (List.mem_append_left _ (Option.mem_toList.mpr hd)))
    · exact halive c rfl (hs.alive c (List.mem_append_right _ (h.contexts.stack ▸ hsaved)))
  best b hb := by
    rw [bestAlert_congr h.flags h.priority] at hb
    obtain ⟨d, hd, hover⟩ := hs.best b hb
    obtain ⟨c, hc, hsilent⟩ := h.contexts.symm.of_current hd
    obtain ⟨hslot, hkind, hpriority⟩ := Context.same_of_silent hsilent
    refine ⟨c, hc, ?_⟩
    rwa [Context.presents, hslot, hkind, hpriority, h.priority]
  load_work hw := h.loading.trans (hs.load_work (h.load_work hw))
  load_empty hl := h.load_empty (h.loading ▸ hl) (hs.load_empty (h.loading ▸ hl))

/-- A quiet annunciator over an empty table. -/
theorem State.settled_of_empty {s : State} (hempty : ∀ k, s.table.rec? k = none) (hcurrent : s.ann.current = none)
    (hstack : s.ann.stack = []) (hload : s.awaits .loadEnd = true → s.loading = true) : s.Settled where
  alive c hc := by simp [hcurrent, hstack] at hc
  best b hb := by
    have hflag := (bestAlert_pending hb).1
    simp [Table.hasAlert, hempty] at hflag
  load_work := hload
  load_empty _ := hempty

/-- Over an empty table every context has gone. -/
theorem State.Settled.no_contexts {s : State} (hs : s.Settled) (hempty : ∀ k, s.table.rec? k = none) :
    s.ann.current = none ∧ s.ann.stack = [] := by
  have hdead : ∀ c ∈ s.ann.current.toList ++ s.ann.stack, False := fun c hc => by
    have := hs.alive c hc
    simp [Context.alive, Table.hasAlert, hempty] at this
  refine ⟨Option.eq_none_iff_forall_not_mem.mpr fun c hc => ?_, List.eq_nil_iff_forall_not_mem.mpr fun c hc => ?_⟩
  · exact hdead c (List.mem_append_left _ (Option.mem_toList.mpr hc))
  · exact hdead c (List.mem_append_right _ hc)

/-- What every step does to the annunciator: it keeps the order of the contexts, and what an evaluation leaves behind. -/
structure State.KeepsAlerts (s t : State) : Prop where
  ordered : s.ann.Ordered → t.ann.Ordered
  settled : s.Settled → t.Settled

theorem State.KeepsAlerts.chains : Chains State.KeepsAlerts where
  refl _ := ⟨id, id⟩
  trans h g := ⟨g.ordered ∘ h.ordered, g.settled ∘ h.settled⟩

namespace State.KeepsAlerts

theorem refl (s : State) : s.KeepsAlerts s := chains.refl s
theorem trans {s t u : State} (h : s.KeepsAlerts t) (g : t.KeepsAlerts u) : s.KeepsAlerts u := chains.trans h g
theorem ite {s t u : State} {c : Prop} [Decidable c] (h : s.KeepsAlerts t) (g : s.KeepsAlerts u) :
    s.KeepsAlerts (if c then t else u) := chains.ite h g

/-- The event has nothing for the Alert Unit. -/
theorem of_flags {s t : State} (h : s.FlagsStand t) : s.KeepsAlerts t := ⟨h.contexts.ordered, fun hs => hs.of_flagsStand h⟩

/-- Other blocks change. -/
theorem of_eq {s t : State} (hann : t.ann = s.ann) (hset : t.settings = s.settings) (htodo : t.todo = s.todo)
    (htable : t.table = s.table) : s.KeepsAlerts t := of_flags (.of_eq hann hset htodo htable)

/-- The Alert Unit takes an event, whatever it did to flags and priorities (R121, R125). -/
theorem of_settle {s t : State} (hann : s.ann.SameContexts t.ann) (hloading : t.loading = s.loading)
    (hwork : t.awaits .loadEnd = true → s.awaits .loadEnd = true)
    (hempty : s.loading = true → (∀ k, s.table.rec? k = none) → ∀ k, t.table.rec? k = none) : s.KeepsAlerts t.settle where
  ordered h := State.settle_ordered (hann.ordered h)
  settled hs :=
    { alive := t.settle_settled.1
      best := t.settle_settled.2
      load_work := fun hw => hloading.trans (hs.load_work (hwork hw))
      load_empty := fun hl => hempty (hloading ▸ hl) (hs.load_empty (hloading ▸ hl)) }

/-- A quiet annunciator over an empty table, whatever was before. -/
theorem of_quiet {s t : State} (hann : t.ann = .quiet) (htable : t.table = .empty)
    (hload : s.Settled → t.awaits .loadEnd = true → t.loading = true) : s.KeepsAlerts t where
  ordered _ := hann ▸ Annunciator.quiet_ordered
  settled hs := State.settled_of_empty (fun k => by rw [htable, Table.empty_rec?]) (by rw [hann]; rfl) (by rw [hann]; rfl) (hload hs)

end State.KeepsAlerts

end Sys2Proof.Machine
end


section
/-! SUPPORT. What each operation on records leaves of the annunciator and of what it looks at: those that change no flag (R23, R25, R11,
R12), and those whose flags the Alert Unit takes at the end of the event (R116, R121, R131). -/

namespace Sys2Proof.Machine

/-! ### Operations that change no flag -/

/-- An event settled from a state where the annunciator stands. -/
theorem settleFrom_keepsAlerts {s t : State} (h : s.AnnStands t) : s.KeepsAlerts (settleFrom s t) := by
  unfold settleFrom
  split
  · next hflags => exact .of_flags ⟨h, fun k kind => Table.hasAlert_congr hflags k kind⟩
  · exact .of_settle h.contexts h.loading h.load_work h.load_empty

/-- A change of a record brings none into an EMPTY slot. -/
theorem modify_annStands (s : State) (k : Nat) (f : Record → Record) : s.AnnStands (s.modify k f) :=
  .of_table rfl rfl (fun _ => id) fun j hj => by
    rw [State.rec?_modify]
    split
    · next hjk => rw [← hjk, hj]; rfl
    · exact hj

theorem modify_flagsStand (s : State) (k : Nat) {f : Record → Record} (hf : ∀ r, (f r).alerts = r.alerts) :
    s.FlagsStand (s.modify k f) where
  toAnnStands := modify_annStands s k f
  flags j kind := by
    unfold Table.hasAlert
    rw [State.rec?_modify]
    split
    · next hjk => rw [hjk]; cases s.table.rec? k <;> simp [Record.hasAlert, hf]
    · rfl

/-- Head references and queues hold no flag. -/
theorem setHead_flagsStand (s : State) (st k : Nat) : s.FlagsStand (s.withTable (s.table.setHead st k)) :=
  .of_slots rfl rfl (fun _ => id) fun _ => rfl

theorem setQueue_flagsStand (s : State) (st : Nat) (q : List Nat) : s.FlagsStand (s.withTable (s.table.setQueue st q)) :=
  .of_slots rfl rfl (fun _ => id) fun _ => rfl

theorem withApp_flagsStand (s : State) (a : Apportioner) : s.FlagsStand (s.withApp a) := .of_eq rfl rfl rfl rfl

theorem dropElements_flagsStand (s : State) (es : List Nat) (k : Nat) : s.FlagsStand (s.dropElements es k) := withApp_flagsStand s _

theorem follow_flagsStand (s : State) (st : Nat) : s.FlagsStand (s.follow st) := by
  have hburners : ∀ b, s.FlagsStand (s.withBurners b) := fun _ => .of_eq rfl rfl rfl rfl
  exact .ite (.ite ((hburners _).trans (modify_flagsStand _ _ fun _ => rfl)) (hburners _)) (.refl s)

theorem makeHead_flagsStand (s : State) (st k : Nat) : s.FlagsStand (s.makeHead st k) :=
  ((setHead_flagsStand s st k).trans (modify_flagsStand _ k fun _ => by rfl)).trans (follow_flagsStand _ _)

theorem place_flagsStand (s : State) (k : Nat) : s.FlagsStand (s.place k) := by
  unfold State.place
  split
  · exact .refl s
  · exact .ite (makeHead_flagsStand s _ k) ((setQueue_flagsStand s _ _).trans (modify_flagsStand _ k fun _ => by rfl))

theorem placeAll_flagsStand (s : State) (ks : List Nat) : s.FlagsStand (s.placeAll ks) :=
  State.FlagsStand.chains.foldl place_flagsStand ks s

theorem promote_flagsStand (s : State) (st : Nat) : s.FlagsStand (s.promote st) := by
  unfold State.promote
  split
  · exact (setHead_flagsStand s _ _).trans (follow_flagsStand _ _)
  · exact (setQueue_flagsStand s _ _).trans (makeHead_flagsStand _ _ _)

theorem release_flagsStand (s : State) (k : Nat) : s.FlagsStand (s.release k) :=
  (State.FlagsStand.chains.foldl (fun s d => modify_flagsStand s d fun _ => by rfl) _ s).trans (placeAll_flagsStand _ _)

theorem leaveStarted_flagsStand (s t : State) : t.FlagsStand (s.leaveStarted t) where
  contexts := .of_eq rfl
  priority _ := rfl
  loading := rfl
  load_work h := (leaveStarted_took s t).adds_none .loadEnd rfl h
  load_empty _ := id
  flags _ _ := rfl

/-! ### Operations that may raise or clear flags -/

theorem endRecord_annStands (s : State) (k : Nat) (r : Record) (j : Nat) : s.AnnStands (s.endRecord k r j) := by
  have hended : ∀ f, s.AnnStands ((s.modify k f).raise k .recordEnd) := fun _ => (modify_annStands s k _).trans (modify_annStands _ k _)
  refine (State.AnnStands.trans ?_ (release_flagsStand _ k).toAnnStands).trans (dropElements_flagsStand _ _ j).toAnnStands
  exact .ite ((hended _).trans (follow_flagsStand _ _).toAnnStands) ((hended _).trans (promote_flagsStand _ _).toAnnStands)

theorem nextStage_annStands (s : State) (k : Nat) (r : Record) (j : Nat) : s.AnnStands (s.nextStage k r j) := by
  have hbegun : s.AnnStands (s.modify k _) := modify_annStands s k (fun r => r.beginStage (r.stage + 1))
  have hraised := State.AnnStands.ite (c := (r.stageAt? r.stage).elim false Stage.second = true)
    (hbegun.trans (modify_annStands _ k (Record.raise .stageEnd))) hbegun
  exact (hraised.trans (follow_flagsStand _ _).toAnnStands).trans (dropElements_flagsStand _ _ j).toAnnStands

theorem endStage_annStands (s : State) (k j : Nat) : s.AnnStands (s.endStage k j) := by
  unfold State.endStage
  split
  · exact .refl s
  · exact .ite (nextStage_annStands s k _ j) (endRecord_annStands s k _ j)

theorem detachFrom_annStands (s : State) (k : Nat) (exempt : List Nat) : s.AnnStands (s.detachFrom k exempt) :=
  State.AnnStands.chains.foldl (fun s d => modify_annStands s d _) _ s

/-- A slot reads as what was put there, if the table has it; every other slot, and one beyond the table, is left alone. -/
theorem Table.rec?_put_cases (t : Table) (k : Nat) (o : Option Record) (j : Nat) :
    (j = k ∧ (t.put k o).rec? j = o) ∨ (t.put k o).rec? j = t.rec? j := by
  by_cases hjk : j = k
  · by_cases hin : 0 < k ∧ k - 1 < t.slots.length
    · exact .inl ⟨hjk, by rw [hjk, Table.rec?_put_same t o hin.1 hin.2]⟩
    · have hsame : t.put k o = t := by
        unfold Table.put
        split
        · rfl
        · rw [List.set_eq_of_length_le (by omega)]
      exact .inr (by rw [hsame])
  · exact .inr (Table.rec?_put_other t o hjk)

theorem retire_annStands (s : State) (k : Nat) (promotes : Bool) (exempt : List Nat) :
    s.AnnStands (s.retire k promotes exempt) := by
  cases hr : s.table.rec? k with
  | none => rw [retire_absent hr]; exact .refl s
  | some r =>
    have hreleased : s.AnnStands (s.released k r exempt) :=
      .trans (.ite (dropElements_flagsStand s _ _).toAnnStands (.refl s)) (detachFrom_annStands _ k exempt)
    have hremoved : s.AnnStands (s.removed k r exempt) := by
      refine hreleased.trans (.of_table rfl rfl (fun _ hw => (List.mem_filter.mp hw).1) fun j hj => ?_)
      rw [removed_table]
      rcases Table.rec?_put_cases _ k none j with ⟨-, h⟩ | h
      · exact h
      · exact h.trans hj
    rw [retire_eq hr]
    exact .ite (.ite (hremoved.trans (promote_flagsStand _ _).toAnnStands)
      ((hremoved.trans (setHead_flagsStand _ _ _).toAnnStands).trans (follow_flagsStand _ _).toAnnStands)) hremoved

theorem retireAll_annStands (s : State) (ks : List Nat) (promotes : Bool) : s.AnnStands (s.retireAll ks promotes) :=
  State.AnnStands.chains.foldl (fun s k => retire_annStands s k promotes ks) ks s

/-! ### The shares of a boundary's work (R84) -/

theorem countWritten_annStands {s : State} {k : Nat} {r : Record} (hr : s.table.rec? k = some r) :
    s.AnnStands (s.countWritten k r) := by
  have hput : s.AnnStands (s.withTable (s.table.put k (some (s.counted r).1))) := by
    rw [← Table.modify_eq_put hr fun _ => (s.counted r).1]
    exact modify_annStands s k _
  exact .ite ((hput.trans (endStage_annStands _ _ _)).trans (leaveStarted_flagsStand _ _).toAnnStands) hput

theorem countRecord_keepsAlerts (s : State) (k : Nat) : s.KeepsAlerts (s.countRecord k) := by
  cases hr : s.table.rec? k with
  | none => simp only [State.countRecord, hr]; exact .refl s
  | some r =>
    by_cases hrun : r.state = .running
    · have hwritten := countWritten_annStands hr
      rw [countRecord_running hr hrun]
      exact settleFrom_keepsAlerts (.ite (hwritten.trans (modify_annStands _ _ _)) hwritten)
    · rw [countRecord_not_running hr hrun]
      exact .refl s

theorem Record.judged_alerts (present : Bool) (r : Record) : (r.judged present).alerts = r.alerts := by
  obtain ⟨_, _, h⟩ := r.judged_cases present
  rw [h]

theorem judgeStation_keepsAlerts (s : State) (st : Nat) : s.KeepsAlerts (s.judgeStation st) := by
  unfold State.judgeStation
  split
  · exact .refl s
  · exact .ite (settleFrom_keepsAlerts (((modify_annStands s _ _).trans (modify_annStands _ _ _)).trans
        (follow_flagsStand _ _).toAnnStands))
      (.of_flags (modify_flagsStand s _ (Record.judged_alerts _)))

theorem openPeriod_flagsStand (s : State) : s.FlagsStand s.openPeriod := by
  have hstanding : ∀ r : Record, r.openStanding.alerts = r.alerts := fun r => by
    obtain ⟨_, h⟩ := r.openStanding_cases
    rw [h]
  have hset := (modify_flagsStand s (s.table.head Config.OV) hstanding).trans (modify_flagsStand _ (s.table.head Config.GR) hstanding)
  exact hset.trans (withApp_flagsStand _ _)

/-- The clock's share counts and places records (R68, R69, R76). -/
theorem advanceClock_flagsStand (s : State) : s.FlagsStand s.advanceClock := by
  have hcounted : s.FlagsStand s.countStarts := State.FlagsStand.chains.foldl (fun s k => modify_flagsStand s k fun _ => by rfl) _ s
  have hplaced := (hcounted.trans (placeAll_flagsStand _ (allSlots.filter s.startDue))).trans (leaveStarted_flagsStand s _)
  exact hplaced.trans (.of_slots rfl rfl (fun _ hw => (List.mem_filter.mp hw).1) fun _ => rfl)

theorem alertTick_keepsAlerts (s : State) : s.KeepsAlerts s.alertTick := by
  have htick : s.FlagsStand (s.withAnn (s.ann.tick s.settings)) := .of_contexts (s.ann.tick_sameContexts s.settings)
  exact .ite (.of_settle htick.contexts htick.loading htick.load_work htick.load_empty) (.of_flags htick)

/-- Every share but the end of the load, whatever is left of the boundary. -/
theorem perform_keepsAlerts (s : State) {w : Work} (hw : w ≠ .loadEnd) : s.KeepsAlerts (s.perform w) := by
  cases w with
  | count k => exact countRecord_keepsAlerts s k
  | judge st => exact judgeStation_keepsAlerts s st
  | openPeriod => exact .of_flags (openPeriod_flagsStand s)
  | alertTick => exact alertTick_keepsAlerts s
  | clock => exact .of_flags (advanceClock_flagsStand s)
  | relays | closePeriod | syncTick => exact .of_eq rfl rfl rfl rfl
  | released _ => exact .refl s
  | refresh => exact .ite (.of_eq rfl rfl rfl rfl) (.of_eq rfl rfl rfl rfl)
  | loadEnd => exact absurd rfl hw

theorem without_flagsStand (s : State) (w : Work) : s.FlagsStand (s.without w) :=
  .of_slots rfl rfl (fun _ hv => (List.mem_filter.mp hv).1) fun _ => rfl

/-- The end of the load comes over an empty table (R36, R140): no context is there to be outranked. -/
theorem takeLoadEnd_settled {s : State} (hs : s.Settled) (h : s.awaits .loadEnd = true) : (s.without .loadEnd).endLoad.Settled := by
  have hempty := hs.load_empty (hs.load_work h)
  obtain ⟨hcurrent, hstack⟩ := hs.no_contexts hempty
  rw [endLoad_eq]
  refine State.settled_of_empty hempty hcurrent hstack fun hw => ?_
  have hgone : (s.without .loadEnd).awaits .loadEnd = false := by rw [without_awaits]; simp
  exact absurd hw (Bool.eq_false_iff.mp hgone)

theorem takeOne_keepsAlerts (s : State) (w : Work) : s.KeepsAlerts (s.takeOne w) := by
  cases h : s.awaits w with
  | false => rw [takeOne_absent h]; exact .refl s
  | true =>
    rw [takeOne_awaited h]
    by_cases hw : w = .loadEnd
    · subst hw
      refine ⟨fun ho => ?_, fun hs => takeLoadEnd_settled hs h⟩
      show (s.without .loadEnd).endLoad.ann.Ordered
      rw [endLoad_eq]
      exact ho
    · exact (State.KeepsAlerts.of_flags (without_flagsStand s w)).trans (perform_keepsAlerts _ hw)

theorem take_keepsAlerts (s : State) (w : Work) : s.KeepsAlerts (s.take w) :=
  State.KeepsAlerts.chains.take takeOne_keepsAlerts s w

/-- A boundary sets out the end of the load only while the load runs (R84, R176). -/
theorem mem_agenda_loadEnd {s : State} : .loadEnd ∈ s.agenda ↔ s.loading = true := by
  have hperiod : .loadEnd ∉ (if s.time.atPeriod then [Work.closePeriod, .openPeriod] else [.relays]) := by split <;> simp
  have hclock : .loadEnd ∉ (if s.time.atSecond then [Work.clock] else []) := by split <;> simp
  have hrefresh : .loadEnd ∉ (if s.time.atSecond then [Work.refresh] else []) := by split <;> simp
  simp [State.agenda, hperiod, hclock, hrefresh]

theorem makeBoundary_keepsAlerts (s : State) (lines : Lines) : s.KeepsAlerts (s.makeBoundary lines) := by
  have hmarks : s.FlagsStand ((s.withTime (s.time.boundary lines)).withAnn { s.ann with fresh := false, ousted := none }) :=
    .trans (t := s.withTime (s.time.boundary lines)) (.of_eq rfl rfl rfl rfl)
      (.of_contexts (a := { s.ann with fresh := false, ousted := none }) ⟨rfl, rfl⟩)
  refine ⟨hmarks.contexts.ordered, fun hs => ?_⟩
  have hmade := hs.of_flagsStand hmarks
  refine ⟨hmade.alive, hmade.best, fun hw => ?_, hmade.load_empty⟩
  exact mem_agenda_loadEnd.mp (awaits_iff.mp hw)

theorem crystalCycle_keepsAlerts (s : State) (lines : Lines) (first later : List Work) :
    s.KeepsAlerts (s.crystalCycle lines first later) :=
  .ite (.refl s) (.ite (State.KeepsAlerts.chains.takeBoundary takeOne_keepsAlerts makeBoundary_keepsAlerts s lines first later)
    (.of_eq rfl rfl rfl rfl))

end Sys2Proof.Machine
end


section
/-! SUPPORT. The working settings by item id: one place for each id, and what a replaced value reads as (R118, R171). -/

namespace Sys2Proof.Machine

/-! ### The place of an item -/

theorem itemAt_some {id i : Nat} {it : Config.Item} (h : itemAt id = some (i, it)) : Config.items[i]? = some it ∧ it.id = id := by
  obtain ⟨⟨it', i'⟩, hfound, he⟩ := Option.map_eq_some_iff.mp h
  obtain ⟨rfl, rfl⟩ := Prod.mk.inj he
  exact ⟨(List.mem_zipIdx_iff_getElem?.mp (List.mem_of_find?_eq_some hfound)), by simpa using List.find?_some hfound⟩

/-- A place among the 29 items belongs to one item id. -/
theorem itemIndex_inj {id id' : Nat} (h : itemIndex id = itemIndex id') (hknown : itemIndex id < Config.items.length) : id = id' := by
  have hplace : ∀ n, itemIndex n < Config.items.length → ∃ it, Config.items[itemIndex n]? = some it ∧ it.id = n := fun n hn => by
    unfold itemIndex at hn ⊢
    cases hat : itemAt n with
    | none => simp [hat] at hn
    | some p => exact ⟨p.2, itemAt_some hat⟩
  obtain ⟨it, hit, rfl⟩ := hplace id hknown
  obtain ⟨it', hit', rfl⟩ := hplace id' (h ▸ hknown)
  rw [h] at hit
  rw [Option.some.inj (hit.symm.trans hit')]

theorem item_known {it : Config.Item} (h : it ∈ Config.items) : ∃ i, itemAt it.id = some (i, it) := by
  have hall : ∀ it ∈ Config.items, (itemAt it.id).map Prod.snd = some it := by decide
  obtain ⟨⟨i, it'⟩, hat, rfl⟩ := Option.map_eq_some_iff.mp (hall it h)
  exact ⟨i, hat⟩

theorem itemIndex_lt {id i : Nat} {it : Config.Item} (h : itemAt id = some (i, it)) : itemIndex id < Config.items.length := by
  obtain ⟨hlt, -⟩ := List.getElem?_eq_some_iff.mp (itemAt_some h).1
  rwa [itemIndex, h]

/-! ### A value replaced -/

/-- Replacing a value leaves the values at other places alone. -/
theorem SettingsUnit.value_withValue_other {u : SettingsUnit} {id id' : Nat} (h : itemIndex id ≠ itemIndex id') (v : Nat) :
    (u.withValue id v).value id' = u.value id' := by
  simp [SettingsUnit.value, SettingsUnit.withValue, List.getElem?_set_ne h]

/-- Replacing a value by itself changes nothing. -/
theorem SettingsUnit.withValue_self (u : SettingsUnit) (id : Nat) : u.withValue id (u.value id) = u := by
  have hset : u.values.set (itemIndex id) (u.value id) = u.values := by
    rw [SettingsUnit.value, List.getD_eq_getElem?_getD]
    exact List.ext_getElem? fun i => by grind
  rw [SettingsUnit.withValue, hset]

/-- A known item reads back as it was set. -/
theorem SettingsUnit.value_withValue_known {u : SettingsUnit} {id : Nat} (hlen : u.values.length = 29)
    (h : itemIndex id < Config.items.length) (v : Nat) : (u.withValue id v).value id = v := by
  have hlt : itemIndex id < u.values.length := hlen ▸ h
  simp [SettingsUnit.value, SettingsUnit.withValue, hlt]

theorem SettingsUnit.value_withValue_ne {u : SettingsUnit} {id id' : Nat} (h : itemIndex id < Config.items.length) (hne : id' ≠ id)
    (v : Nat) : (u.withValue id v).value id' = u.value id' :=
  SettingsUnit.value_withValue_other (fun he => hne (itemIndex_inj he h).symm) v

/-! ### Priorities (R118) -/

theorem priority_known (kind : AlertKind) : itemIndex (0x40 + kind.num) < Config.items.length := by
  cases kind <;> decide

/-- Only a priority item holds a priority (R118). -/
theorem SettingsUnit.priority_withValue {u : SettingsUnit} {id : Nat} (h : id < 0x40 ∨ 0x45 < id) (v : Nat) (kind : AlertKind) :
    (u.withValue id v).priority kind = u.priority kind := by
  refine SettingsUnit.value_withValue_other (fun he => ?_) v
  have hid := itemIndex_inj he.symm (priority_known kind)
  have hnum : kind.num ≤ 5 := by cases kind <;> decide
  omega

end Sys2Proof.Machine
end


section
/-! PROOFS. Every step keeps the order of the annunciator's contexts, and leaves the annunciator as an evaluation would (R120 to R125):
O11, O12. -/

namespace Sys2Proof.Machine

/-! ### Commands that change settings -/

/-- A change of settings that hold no priority. -/
theorem withSettings_flagsStand {s : State} {u : SettingsUnit} (hload : u.loader = s.settings.loader)
    (h : ∀ kind, u.priority kind = s.settings.priority kind) : s.FlagsStand (s.withSettings u) :=
  ⟨⟨.of_eq rfl, h, by rw [State.loading, State.withSettings_settings, hload]; rfl, id, fun _ => id⟩, fun _ _ => rfl⟩

/-- A permission, changed: a lowering from FULL retires records, as one event of the Alert Unit (R36, R149). -/
theorem setPermission_keepsAlerts (s : State) (st v : Nat) : s.KeepsAlerts (s.setPermission st v) := by
  have hset : s.FlagsStand (s.withSettings (s.settings.withValue (0x50 + st) v)) :=
    withSettings_flagsStand rfl (SettingsUnit.priority_withValue (.inr (by omega)) v)
  exact .ite (settleFrom_keepsAlerts (hset.toAnnStands.trans (retireAll_annStands _ _ _))) (.of_flags hset)

/-- A priority that changes is followed by the Alert Unit's event (R125). -/
theorem setPriority_keepsAlerts (s : State) (id v : Nat) : s.KeepsAlerts (s.setPriority id v) := by
  unfold State.setPriority
  dsimp only
  split
  · next hsame => rw [← hsame, SettingsUnit.withValue_self]; exact .refl s
  · exact .of_settle (.of_eq rfl) rfl (fun hw => hw) fun _ he => he

theorem setItem_keepsAlerts (s : State) (id v : Nat) : s.KeepsAlerts (s.setItem id v) := by
  unfold State.setItem
  split
  · refine .of_flags (withSettings_flagsStand rfl fun kind => ?_)
    exact (SettingsUnit.priority_withValue (.inl (by decide)) _ kind).trans (SettingsUnit.priority_withValue (.inl (by decide)) v kind)
  · split
    · exact setPriority_keepsAlerts s id v
    · split
      · exact setPermission_keepsAlerts s _ v
      · next hpriority _ =>
        exact .of_flags (withSettings_flagsStand rfl (SettingsUnit.priority_withValue (by omega) v))

/-! ### Commands on records -/

/-- A new record comes without flags (R20); no record comes while the load runs (R140). -/
theorem putNew_flagsStand {s : State} (hl : s.loading = false) {k : Nat} {r : Record} (hfree : s.table.rec? k = none)
    (hr : r.alerts = 0#6) : s.FlagsStand (s.withTable (s.table.put k (some r))) where
  contexts := .of_eq rfl
  priority _ := rfl
  loading := rfl
  load_work := id
  load_empty h := absurd h (Bool.eq_false_iff.mp hl)
  flags j kind := by
    rw [State.withTable_table, Table.hasAlert, Table.hasAlert]
    rcases Table.rec?_put_cases s.table k (some r) j with ⟨rfl, h⟩ | h
    · rw [h, hfree]; simp [Record.hasAlert, hr]
    · rw [h]

theorem createChecked_keepsAlerts {s : State} (hl : s.loading = false) (p : Port) (c : CreateParams) (sc : StartCondition) :
    LeadsTo s.KeepsAlerts (s.createChecked p c sc) := by
  refine .ite (.error _) (.ite (.error _) (.ite (.error _) ?_))
  split
  · exact .error _
  · next k hfree =>
    obtain ⟨-, hnone, -⟩ := Table.free?_some hfree
    have hput : s.FlagsStand (s.withTable (s.table.put k (some (newRecord p c (s.table.createdStart sc))))) :=
      putNew_flagsStand hl hnone rfl
    exact .ite (.error _) (.ok (.of_flags (.ite (hput.trans (place_flagsStand _ k)) hput)))

theorem create_keepsAlerts (p : Port) (bytes : List Byte) {s : State} (hl : s.loading = false) :
    LeadsTo s.KeepsAlerts (createBody p bytes s) := by
  unfold createBody
  split
  · exact .error _
  · refine .ite ?_ (.error _)
    split
    · exact .error _
    · exact .allowed (createChecked_keepsAlerts hl p _ _)

theorem adjust_keepsAlerts (p : Port) (bytes : List Byte) (s : State) : LeadsTo s.KeepsAlerts (adjustBody p bytes s) := by
  refine .ite (.error _) (.withRecord fun r => .allowed ?_)
  split
  · exact .error _
  · exact .ok (settleFrom_keepsAlerts (modify_annStands s _ _))

theorem ack_keepsAlerts (p : Port) (bytes : List Byte) (s : State) : LeadsTo s.KeepsAlerts (ackBody p bytes s) := by
  unfold ackBody
  dsimp only
  split
  · exact .error _
  · exact .withRecord fun r => .allowed (.ok (settleFrom_keepsAlerts (.ite (retire_annStands s _ _ _) (modify_annStands s _ _))))

/-- A RESUME changes a record's course, not its flags. -/
theorem Record.resumeAt_alerts (r : Record) : r.resumeAt.alerts = r.alerts := by
  unfold Record.resumeAt; split <;> rfl

theorem pause_keepsAlerts (p : Port) (bytes : List Byte) (s : State) : LeadsTo s.KeepsAlerts (pauseBody p bytes s) :=
  .withRecord fun _ => .allowed (.inState (.ok (.of_flags
    (((modify_flagsStand s _ fun _ => by rfl).trans (dropElements_flagsStand _ _ _)).trans (follow_flagsStand _ _)))))

theorem resume_keepsAlerts (p : Port) (bytes : List Byte) (s : State) : LeadsTo s.KeepsAlerts (resumeBody p bytes s) :=
  .withRecord fun _ => .allowed (.inState (.ok (.of_flags
    ((modify_flagsStand s _ Record.resumeAt_alerts).trans (follow_flagsStand _ _)))))

theorem setLevel_keepsAlerts (p : Port) (bytes : List Byte) (s : State) : LeadsTo s.KeepsAlerts (setLevelBody p bytes s) :=
  .ite (.error _) (.withRecord fun _ => .ite (.error _) (.allowed (.inState (.ok (.of_flags
    ((modify_flagsStand s _ fun _ => by rfl).trans (follow_flagsStand _ _)))))))

theorem skip_keepsAlerts (p : Port) (bytes : List Byte) (s : State) : LeadsTo s.KeepsAlerts (skipBody p bytes s) :=
  .withRecord fun _ => .allowed (.inState (.guarded (.ok
    (settleFrom_keepsAlerts ((endStage_annStands s _ _).trans (modify_annStands _ _ _))))))

theorem setClock_keepsAlerts (p : Port) (bytes : List Byte) (s : State) : LeadsTo s.KeepsAlerts (setClockBody p bytes s) :=
  .ite (.error _) (.guarded (.ok (.of_flags (.trans (t := s.withTime { s.time with clock := _, valid := true })
    (.of_eq rfl rfl rfl rfl) (placeAll_flagsStand _ _)))))

theorem setItemBody_keepsAlerts (p : Port) (bytes : List Byte) (s : State) : LeadsTo s.KeepsAlerts (setItemBody p bytes s) := by
  refine .panelOnly (.notStoring ?_)
  dsimp only
  split
  · exact .error _
  · exact .ite (.ok (setItem_keepsAlerts s _ _)) (.error _)

theorem getItem_keepsAlerts (p : Port) (bytes : List Byte) (s : State) : LeadsTo s.KeepsAlerts (getItemBody p bytes s) := by
  unfold getItemBody
  dsimp only
  split
  · exact .error _
  · exact .ok (.refl s)

theorem stationReset_keepsAlerts (s : State) (st : Nat) : s.KeepsAlerts (s.stationReset st) :=
  settleFrom_keepsAlerts ((retireAll_annStands s _ _).trans (dropElements_flagsStand _ _ _).toAnnStands)

/-- A SOFT RESET takes notes alone off the agenda, and quiets the annunciator over an empty table (R157). -/
theorem softReset_keepsAlerts (s : State) : s.KeepsAlerts s.softReset :=
  .of_quiet rfl rfl fun hs hw => hs.load_work (awaits_iff.mpr (List.mem_filter.mp (awaits_iff.mp hw)).1)

/-! ### The Command Unit -/

/-- The reply stands beside the work; the mark of log 17 is not looked at. -/
theorem conclude_keepsAlerts {s : State} {v : Verdict} (h : LeadsTo s.KeepsAlerts v) (p : Port) (tag : Byte) :
    s.KeepsAlerts (s.conclude p tag v) := by
  have hreply : ∀ (u : State) r, u.KeepsAlerts (u.reply p r) := fun u r => .of_eq (by simp) (by simp) (by simp) (by simp)
  cases v with
  | error c => exact hreply s _
  | ok x =>
    have hmark : x.1.KeepsAlerts (s.afterCommand x.1) := .of_flags (.of_contexts ⟨rfl, rfl⟩)
    exact ((h x.1 x.2 rfl).trans hmark).trans (hreply _ _)

theorem takeCommand_keepsAlerts (s : State) (p : Port) : s.KeepsAlerts (s.takeCommand p) :=
  .of_eq (by simp) (by simp) (by simp) (by simp)

/-- A command keeps what its own work keeps, which is not done during the start-up load (R140). -/
theorem execute_keepsAlerts {code : Nat} {body : Port → List Byte → State → Verdict} {s t : State}
    (he : execute code body s = .next t) (h : ∀ p bytes u, u.loading = false → LeadsTo u.KeepsAlerts (body p bytes u)) :
    s.KeepsAlerts t := by
  rw [← outcome_next_inj he]
  split
  · exact .refl s
  · next p bytes _ =>
    refine .ite ((takeCommand_keepsAlerts s p).trans (conclude_keepsAlerts ?_ p _)) (.refl s)
    unfold State.judge
    split
    · exact .error _
    · next hl => exact .ite (.error _) (h p bytes _ (Bool.eq_false_iff.mpr hl))

theorem command_keepsAlerts {c : Instr} {code : Nat} (hcode : commandCode c = some code) {s t : State} (h : exec c s = .next t) :
    s.KeepsAlerts t := by
  cases c with
  | create => exact execute_keepsAlerts h fun p bytes _ hl => create_keepsAlerts p bytes hl
  | retire =>
    exact execute_keepsAlerts h fun _ _ u _ => .withRecord fun _ => .allowed (.guarded (.ok
      (settleFrom_keepsAlerts (retire_annStands u _ _ _))))
  | pause => exact execute_keepsAlerts h fun p bytes u _ => pause_keepsAlerts p bytes u
  | resume => exact execute_keepsAlerts h fun p bytes u _ => resume_keepsAlerts p bytes u
  | adjust => exact execute_keepsAlerts h fun p bytes u _ => adjust_keepsAlerts p bytes u
  | setLevel => exact execute_keepsAlerts h fun p bytes u _ => setLevel_keepsAlerts p bytes u
  | skip => exact execute_keepsAlerts h fun p bytes u _ => skip_keepsAlerts p bytes u
  | start =>
    exact execute_keepsAlerts h fun _ _ u _ => .withRecord fun _ => .allowed (.inState (.ok (.of_flags (place_flagsStand u _))))
  | query => exact execute_keepsAlerts h fun _ _ u _ => .withRecord fun _ => .ok (.refl u)
  | list => exact execute_keepsAlerts h fun _ _ u _ => .ite (.error _) (.ok (.refl u))
  | ack => exact execute_keepsAlerts h fun p bytes u _ => ack_keepsAlerts p bytes u
  | silence =>
    exact execute_keepsAlerts h fun _ _ u _ => .ite (.ok (.of_flags (.of_contexts u.ann.mute_sameContexts))) (.error _)
  | setClock => exact execute_keepsAlerts h fun p bytes u _ => setClock_keepsAlerts p bytes u
  | window => exact execute_keepsAlerts h fun _ _ _ _ => .panelOnly (.ite (.ok (.of_eq rfl rfl rfl rfl)) (.error _))
  | setItem => exact execute_keepsAlerts h fun p bytes u _ => setItemBody_keepsAlerts p bytes u
  | getItem => exact execute_keepsAlerts h fun p bytes u _ => getItem_keepsAlerts p bytes u
  | storeSettings =>
    exact execute_keepsAlerts h fun _ _ _ _ => .panelOnly (.notStoring (.ok (.of_flags (withSettings_flagsStand rfl fun _ => rfl))))
  | nextAlert | settingsStatus => exact execute_keepsAlerts h fun _ _ u _ => .ok (.refl u)
  | grant =>
    exact execute_keepsAlerts h fun _ _ u _ => .panelOnly (.notStoring (.ite (.error _) (.ok (setPermission_keepsAlerts u _ _))))
  | softReset => exact execute_keepsAlerts h fun _ _ u _ => .panelOnly (.ok (softReset_keepsAlerts u))
  | stationReset => exact execute_keepsAlerts h fun _ _ u _ => .panelOnly (.ite (.error _) (.ok (stationReset_keepsAlerts u _)))
  | _ => exact absurd hcode (by simp [commandCode])

theorem refusal_keepsAlerts (s : State) (p : Port) (tag : Byte) (c : ResultCode) :
    s.KeepsAlerts ((s.takeCommand p).conclude p tag (.error c)) :=
  (takeCommand_keepsAlerts s p).trans (conclude_keepsAlerts (.error c) p tag)

theorem badCommand_keepsAlerts {s t : State} (h : exec .badCommand s = .next t) : s.KeepsAlerts t := by
  rw [← outcome_next_inj h]
  split
  · exact .refl s
  · split
    · exact .refl s
    · exact .ite (.refl s) (refusal_keepsAlerts s _ _ _)

theorem commandWithoutCode_keepsAlerts {s t : State} (h : exec .commandWithoutCode s = .next t) : s.KeepsAlerts t := by
  rw [← outcome_next_inj h]
  split
  · exact .refl s
  · split
    · exact .refl s
    · exact refusal_keepsAlerts s _ _ _

/-! ### Every event -/

theorem startPart_keepsAlerts (s : State) (radr : BitVec 2) (status : List Byte) (m : List Host.Cell) :
    s.KeepsAlerts (s.startPart radr status m) :=
  .of_quiet rfl rfl fun _ hw => absurd (awaits_iff.mp hw) List.not_mem_nil

theorem applyEntry_loader (u : SettingsUnit) (id v : Nat) : (u.applyEntry id v).loader = u.loader := by
  unfold SettingsUnit.applyEntry
  split
  · rfl
  · split <;> rfl

theorem loadNext_loader (m : List Host.Cell) (u : SettingsUnit) : (loadNext m u).loader = u.loader := by
  unfold loadNext
  split
  · exact applyEntry_loader u _ _
  · rfl

/-- An entry of the image may change a priority, over an empty table (R140, R176). -/
theorem loadEntry_keepsAlerts {s t : State} (h : exec .loadEntry s = .next t) : s.KeepsAlerts t := by
  rw [← outcome_next_inj h]
  split
  · exact .refl s
  · next hload =>
    have hl : s.loading = true := by
      by_contra hn
      simp [hn] at hload
    refine ⟨fun ho => by simpa using ho, fun hs => ?_⟩
    have hempty := hs.load_empty hl
    obtain ⟨hcurrent, hstack⟩ := hs.no_contexts hempty
    refine State.settled_of_empty (by simpa using hempty) (by simpa using hcurrent) (by simpa using hstack) fun _ => ?_
    rw [State.loading, State.withLink_settings, State.withSettings_settings, loadNext_loader]
    exact hl

/-- A write of a store changes no working value (R177, R178). -/
theorem storeWrite_flagsStand {s : State} {u : SettingsUnit} (hload : u.loader = s.settings.loader)
    (hvalues : u.values = s.settings.values) (m : List Host.Cell) (ts : List Transfer) :
    s.FlagsStand (((s.withMemory m).withLink ts).withSettings u) := by
  have hpriority : ∀ kind, u.priority kind = s.settings.priority kind := fun kind => by
    rw [SettingsUnit.priority, SettingsUnit.value, hvalues]
    rfl
  have hlink : s.FlagsStand ((s.withMemory m).withLink ts) := .of_eq (by simp) (by simp) (by simp) (by simp)
  exact hlink.trans (withSettings_flagsStand (by simpa using hload) (by simpa using hpriority))

theorem exec_keepsAlerts (c : Instr) {s t : State} (h : exec c s = .next t) : s.KeepsAlerts t := by
  cases hcode : commandCode c with
  | some code => exact command_keepsAlerts hcode h
  | none =>
    cases c with
    | powerOn radr status landed => exact outcome_next_inj h ▸ startPart_keepsAlerts s _ _ _
    | resetnLow landed =>
      exact outcome_next_inj h ▸ .ite (.refl s) (.of_quiet rfl rfl fun _ hw => absurd (awaits_iff.mp hw) List.not_mem_nil)
    | resetnRelease radr status => exact outcome_next_inj h ▸ .ite (startPart_keepsAlerts s _ _ _) (.refl s)
    | sliceBoundary lines first later =>
      have hlast : s.KeepsAlerts s.toLastCycle := .ite (.refl s) (.of_eq rfl rfl rfl rfl)
      exact outcome_next_inj h ▸ hlast.trans (crystalCycle_keepsAlerts _ _ _ _)
    | loadEntry => exact loadEntry_keepsAlerts h
    | secondBoundary => exact outcome_next_inj h ▸ (take_keepsAlerts s _).trans (take_keepsAlerts _ _)
    | loadEnd | periodBoundary => exact outcome_next_inj h ▸ take_keepsAlerts s _
    | syncFall | delayDue _ | offsetDue _ | stageEnd _ | recordEnd _ | flameLoss _ | soundTimeout =>
      exact outcome_next_inj h ▸ .ite (take_keepsAlerts s _) (.refl s)
    | badCommand => exact badCommand_keepsAlerts h
    | commandWithoutCode => exact commandWithoutCode_keepsAlerts h
    | storeWriteComplete =>
      rw [← outcome_next_inj h]
      split
      · exact .of_flags (storeWrite_flagsStand (by split <;> rfl) (by split <;> rfl) _ _)
      all_goals exact .refl s
    | storeWriteTimeout left =>
      rw [← outcome_next_inj h]
      split
      · exact .of_flags (storeWrite_flagsStand (by rfl) (by rfl) _ _)
      all_goals exact .refl s
    | commandFrameEnd bytes =>
      rw [← outcome_next_inj h]
      split
      · exact .ite (.refl s) (.of_eq rfl rfl rfl rfl)
      all_goals exact .refl s
    | readWindowEnd => exact outcome_next_inj h ▸ .ite (.refl s) (.ite (.of_eq rfl rfl rfl rfl) (.of_eq rfl rfl rfl rfl))
    | pcsFall | frameTypeByte _ | fetchLengthByte | windowEntry | portStatusByte _ | i2cAddress _ _ | remoteWriteFirstByte _
    | remoteWriteOverlong | remoteWriteEnd _ | pcsRise | readTransactionEnd =>
      exact outcome_next_inj h ▸ .ite (.refl s) (.of_eq rfl rfl rfl rfl)
    | _ => exact absurd hcode (by simp [commandCode])

theorem step_keepsAlerts {s t : State} (h : step s = .next t) : s.KeepsAlerts t := by
  unfold step at h
  cases hp : s.pending with
  | nil =>
    rw [hp] at h
    rw [← outcome_next_inj h]
    exact crystalCycle_keepsAlerts s _ _ _
  | cons c rest =>
    rw [hp] at h
    exact (State.KeepsAlerts.of_eq (s := s) (t := { s with pending := rest }) rfl rfl rfl rfl).trans (exec_keepsAlerts c h)

/-- Settles O11: pushes come below a higher priority, and taking contexts out keeps the order of the others. -/
theorem stepKeepsContextsOrdered : Obligations.StepKeepsContextsOrdered := fun _ _ hs h => (step_keepsAlerts h).ordered hs

/-- Settles O12: an event either changes no flag and no priority, or ends with the Alert Unit's evaluation. -/
theorem stepKeepsAnnunciatorSettled : Obligations.StepKeepsAnnunciatorSettled := fun _ _ hs h => (step_keepsAlerts h).settled hs

end Sys2Proof.Machine
end


section
/-! PROOFS. The best alert, the annunciator's evaluation and what comes off its stack (R119, R121 to R125): O35. -/

namespace Sys2Proof.Machine

/-! ### The pending alerts in their order (R119) -/

theorem AlertKind.mem_all (kind : AlertKind) : kind ∈ AlertKind.all := by cases kind <;> decide

theorem AlertKind.num_inj {a b : AlertKind} (h : a.num = b.num) : a = b := by
  have hat : ∀ kind : AlertKind, AlertKind.ofNum? kind.num = some kind := fun kind => by cases kind <;> rfl
  exact Option.some.inj ((hat a).symm.trans (h ▸ hat b))

/-- The first alert stands before the second: a lower slot, then an earlier kind. -/
def alertBefore (a b : Nat × AlertKind) : Prop := a.1 < b.1 ∨ (a.1 = b.1 ∧ a.2.num ≤ b.2.num)

theorem allAlerts_pairwise : allAlerts.Pairwise alertBefore := by
  refine List.pairwise_flatMap.mpr ⟨fun k _ => ?_, allSlots_pairwise.imp fun hlt a ha b hb => ?_⟩
  · have hkinds : AlertKind.all.Pairwise (fun a b => a.num ≤ b.num) := by decide
    exact List.pairwise_map.mpr (hkinds.imp fun h => .inr ⟨rfl, h⟩)
  · obtain ⟨_, -, rfl⟩ := List.mem_map.mp ha
    obtain ⟨_, -, rfl⟩ := List.mem_map.mp hb
    exact .inl hlt

/-- The pending alerts are the flags set at a priority above 0 on visible stations. -/
theorem mem_pendingAlerts_iff {t : Table} {u : SettingsUnit} {v : Nat → Bool} {a : Nat × AlertKind} :
    a ∈ pendingAlerts t u v ↔ t.waits u v a := by
  have hall : a ∈ allAlerts ↔ a.1 ∈ allSlots := by
    simp only [allAlerts, List.mem_flatMap, List.mem_map]
    exact ⟨fun ⟨_, hk, _, _, he⟩ => he ▸ hk, fun h => ⟨a.1, h, a.2, a.2.mem_all, rfl⟩⟩
  rw [pendingAlerts_eq, List.mem_filter, hall, Table.waits, Table.isPending]
  cases hr : t.rec? a.1 <;> simp [and_assoc]

/-! ### The best of them (R119) -/

theorem prefers_of_before {u : SettingsUnit} {a b : Nat × AlertKind} (hle : u.priority b.2 ≤ u.priority a.2) (h : alertBefore a b) :
    u.prefers a b := by
  unfold SettingsUnit.prefers
  unfold alertBefore at h
  omega

theorem prefers_trans {u : SettingsUnit} {a b c : Nat × AlertKind} (h : u.prefers a b) (g : u.prefers b c) : u.prefers a c := by
  unfold SettingsUnit.prefers at *
  omega

theorem prefers_antisymm {u : SettingsUnit} {a b : Nat × AlertKind} (h : u.prefers a b) (g : u.prefers b a) : a = b := by
  unfold SettingsUnit.prefers at h g
  exact Prod.ext (by omega) (AlertKind.num_inj (by omega))

/-- Against alerts that all stand after it, the best so far gives way only to a higher priority. -/
theorem foldl_betterAlert {u : SettingsUnit} {l : List (Nat × AlertKind)} {b : Nat × AlertKind} (hl : (b :: l).Pairwise alertBefore) :
    ∃ a ∈ b :: l, l.foldl (betterAlert u) (some b) = some a ∧ ∀ c ∈ b :: l, u.prefers a c := by
  induction l generalizing b with
  | nil =>
    have hself : u.prefers b b := .inr ⟨rfl, .inr ⟨rfl, Nat.le_refl _⟩⟩
    exact ⟨b, List.mem_singleton_self b, rfl, fun c hc => List.mem_singleton.mp hc ▸ hself⟩
  | cons x l ih =>
    obtain ⟨hb, hx⟩ := List.pairwise_cons.mp hl
    by_cases hlt : u.priority b.2 < u.priority x.2
    · obtain ⟨a, ha, hfold, hbest⟩ := ih hx
      refine ⟨a, List.mem_cons_of_mem _ ha, by rwa [List.foldl_cons, betterAlert, if_pos hlt], fun c hc => ?_⟩
      rcases List.mem_cons.mp hc with rfl | hc
      · exact prefers_trans (hbest x List.mem_cons_self) (.inl hlt)
      · exact hbest c hc
    · obtain ⟨a, ha, hfold, hbest⟩ := ih (List.pairwise_cons.mpr
        ⟨fun c hc => hb c (List.mem_cons_of_mem _ hc), (List.pairwise_cons.mp hx).2⟩)
      have hbx : u.prefers b x := prefers_of_before (by omega) (hb x List.mem_cons_self)
      refine ⟨a, ?_, by rwa [List.foldl_cons, betterAlert, if_neg hlt], fun c hc => ?_⟩
      · rcases List.mem_cons.mp ha with rfl | ha
        · exact List.mem_cons_self
        · exact List.mem_cons_of_mem _ (List.mem_cons_of_mem _ ha)
      · rcases List.mem_cons.mp hc with rfl | hc
        · exact hbest c List.mem_cons_self
        · rcases List.mem_cons.mp hc with rfl | hc
          · exact prefers_trans (hbest b List.mem_cons_self) hbx
          · exact hbest c (List.mem_cons_of_mem _ hc)

/-- There is no best alert where none is pending, and otherwise it is pending and preferred to every other. -/
theorem bestAlert_cases (t : Table) (u : SettingsUnit) (v : Nat → Bool) :
    (bestAlert t u v = none ∧ ∀ a, ¬ t.waits u v a)
    ∨ ∃ a, bestAlert t u v = some a ∧ t.waits u v a ∧ ∀ b, t.waits u v b → u.prefers a b := by
  have hpair : (pendingAlerts t u v).Pairwise alertBefore := pendingAlerts_eq t u v ▸ allAlerts_pairwise.filter _
  have hmem : ∀ a, t.waits u v a ↔ a ∈ pendingAlerts t u v := fun _ => mem_pendingAlerts_iff.symm
  simp only [hmem, bestAlert]
  cases hl : pendingAlerts t u v with
  | nil => exact .inl ⟨rfl, fun _ => List.not_mem_nil⟩
  | cons b l =>
    obtain ⟨a, ha, hfold, hbest⟩ := foldl_betterAlert (u := u) (hl ▸ hpair)
    exact .inr ⟨a, hfold, ha, hbest⟩

theorem bestAlert_none_iff {t : Table} {u : SettingsUnit} {v : Nat → Bool} :
    bestAlert t u v = none ↔ ∀ a, ¬ t.waits u v a := by
  rcases bestAlert_cases t u v with ⟨h, hnone⟩ | ⟨a, h, ha, -⟩
  · exact ⟨fun _ => hnone, fun _ => h⟩
  · exact ⟨fun hn => absurd (h.symm.trans hn) (by simp), fun hnone => absurd ha (hnone a)⟩

theorem bestAlert_some_iff {t : Table} {u : SettingsUnit} {v : Nat → Bool} {a : Nat × AlertKind} :
    bestAlert t u v = some a ↔ t.waits u v a ∧ ∀ b, t.waits u v b → u.prefers a b := by
  rcases bestAlert_cases t u v with ⟨h, hnone⟩ | ⟨b, h, hb, hbest⟩
  · exact ⟨fun hs => absurd (h.symm.trans hs) (by simp), fun ⟨ha, _⟩ => absurd ha (hnone a)⟩
  · refine ⟨fun hs => Option.some.inj (h.symm.trans hs) ▸ ⟨hb, hbest⟩, fun ⟨ha, hpref⟩ => ?_⟩
    rw [h, prefers_antisymm (hbest a ha) (hpref b hb)]

/-! ### The cases of an evaluation (R122) -/

section

variable {u : SettingsUnit} {a : Annunciator} {c : Context} {b : Nat × AlertKind}

theorem Annunciator.evaluate_first (h : a.current = none) (u : SettingsUnit) (b : Nat × AlertKind) :
    a.evaluate u (some b) = a.present (Context.form u b) := by
  simp only [Annunciator.evaluate, h]

theorem Annunciator.evaluate_stays (h : a.current = some c) (hstays : c.presents b = true ∨ u.priority b.2 ≤ c.priority) :
    a.evaluate u (some b) = a := by
  simp only [Annunciator.evaluate, h]
  split
  · rfl
  · next hp => exact if_pos (hstays.resolve_left hp)

theorem Annunciator.evaluate_preempts (h : a.current = some c) (hp : c.presents b = false) (hlt : c.priority < u.priority b.2) :
    a.evaluate u (some b) =
      { { a with stack := pushContext (a.stack.filter (fun d => !d.presents b)) c }.present (Context.form u b) with
        ousted := a.oust } := by
  simp only [Annunciator.evaluate, h]
  rw [if_neg (by simp [hp]), if_neg (by omega)]

theorem Context.presents_iff : c.presents b = true ↔ c.slot = b.1 ∧ c.kind = b.2 := by
  simp [Context.presents]

theorem Annunciator.oust_muted (h : a.current = some c) (hm : c.muted = true) : a.oust = a.ousted := by
  simp [Annunciator.oust, Annunciator.sounding, h, hm]

/-- The last surviving context has gone with the current one (R123). -/
theorem Annunciator.prune_empties {t : Table} (h : a.current = some c) (hc : c.alive t u = false)
    (hs : a.stack.filter (Context.alive t u) = []) :
    a.prune t u = { current := none, stack := [], timer := 0, phase := 0, fresh := false, ousted := none } := by
  simp only [Annunciator.prune, h, hc, hs, Bool.false_eq_true, if_false, Annunciator.pop]

theorem Annunciator.prune_idle {t : Table} (h : a.current = none) :
    a.prune t u = { a with stack := a.stack.filter (Context.alive t u) } := by
  simp only [Annunciator.prune, h]

end

/-- Settles O35: the pending alerts stand in tie-break order, so the first of the highest priority is the best. -/
theorem evaluationFollowsItsTable : Obligations.EvaluationFollowsItsTable := by
  refine ⟨fun t u v => ⟨bestAlert_none_iff, fun _ => bestAlert_some_iff⟩, fun u a => ⟨rfl, fun slot kind => ?_⟩, fun s => ?_⟩
  · refine ⟨fun h => Annunciator.evaluate_first h u _, fun c h => ⟨fun hslot hkind => ?_, fun hle => ?_, fun hother hlt => ?_⟩⟩
    · exact Annunciator.evaluate_stays h (.inl (Context.presents_iff.mpr ⟨hslot, hkind⟩))
    · exact Annunciator.evaluate_stays h (.inr hle)
    · have hp : c.presents (slot, kind) = false := Bool.eq_false_iff.mpr (mt Context.presents_iff.mp hother)
      have heval := Annunciator.evaluate_preempts (b := (slot, kind)) h hp hlt
      refine ⟨?_, fun hm => ?_⟩
      · rw [heval]
        rfl
      · rw [heval]
        exact Annunciator.oust_muted h hm
  · intro alive saved
    have halive : alive = Context.alive s.table s.settings := by
      funext c
      cases hr : s.table.rec? c.slot <;> simp [alive, Context.alive, Table.hasAlert, hr]
    have hsaved : saved = s.ann.stack.filter (Context.alive s.table s.settings) := by simp only [saved, halive]
    refine ⟨s.ann.prune s.table s.settings, rfl, fun h => ?_, fun c h => ⟨fun hc => ?_, fun hc => ⟨fun hnil => ?_, fun d rest hd => ?_⟩⟩⟩
    · rw [Annunciator.prune_idle h, hsaved]
    · rw [Annunciator.prune_keeps h (halive ▸ hc), hsaved]
    · exact Annunciator.prune_empties h (halive ▸ hc) (hsaved ▸ hnil)
    · exact Annunciator.prune_pops h (halive ▸ hc) (hsaved ▸ hd)

end Sys2Proof.Machine
end


section
/-! PROOFS. The sound of the current context at a slice boundary, and SILENCE (R84, R126 to R129, R155): O31, O50. -/

namespace Sys2Proof.Machine

/-! ### A settled annunciator -/

/-- Where every context is alive, none is taken out. -/
theorem Annunciator.prune_eq_self {a : Annunciator} {t : Table} {u : SettingsUnit}
    (h : ∀ c ∈ a.current.toList ++ a.stack, c.alive t u = true) : a.prune t u = a := by
  have hsaved : a.stack.filter (Context.alive t u) = a.stack :=
    List.filter_eq_self.mpr fun c hc => h c (List.mem_append_right _ hc)
  cases hc : a.current with
  | none => rw [Annunciator.prune_idle hc, hsaved]
  | some c => rw [Annunciator.prune_keeps hc (h c (by simp [hc])), hsaved]

/-- The Alert Unit has nothing to do on a state that stands as an evaluation leaves it. -/
theorem State.Settled.settle_eq {s : State} (hs : s.Settled) : s.settle = s := by
  rw [State.settle, Annunciator.prune_eq_self hs.alive]
  cases hb : bestAlert s.table s.settings (fun _ => true) with
  | none => rfl
  | some b =>
    obtain ⟨c, hc, hstays⟩ := hs.best b hb
    rw [Annunciator.evaluate_stays hc hstays]
    rfl

/-! ### A tick of the annunciator (R126, R127, R129) -/

/-- BUZ is low where the current context is muted (R126). -/
theorem buz_muted {s : State} {c : Context} (h : s.ann.current = some c) (hm : c.muted = true) : s.buz = false := by
  simp [State.buz, h, hm]

section

variable {u : SettingsUnit} {a : Annunciator} {c : Context}

/-- What brings the sound timer to its timeout: the current context's own timer, or one set aside at this boundary. -/
theorem Annunciator.timesOut_iff : a.timesOut u = true ↔ a.sounding = true
    ∧ ((a.fresh = false ∧ 10 * u.value Config.soundId ≤ a.timer + 1)
      ∨ ∃ n, a.ousted = some n ∧ 10 * u.value Config.soundId ≤ n + 1) := by
  rw [Annunciator.timesOut, SettingsUnit.soundSlices]
  cases a.ousted <;> simp

theorem Annunciator.sounding_of_unmuted (hc : a.current = some c) (hm : c.muted = false) : a.sounding = true := by
  simp [Annunciator.sounding, hc, hm]

/-- A sounding context whose timer comes to the timeout is muted (R127). -/
theorem Annunciator.tick_expires (hc : a.current = some c) (hm : c.muted = false) (hf : a.fresh = false)
    (ht : 10 * u.value Config.soundId ≤ a.timer + 1) :
    a.timesOut u = true
      ∧ a.tick u = { a with current := some { c with muted := true }, timer := a.timer + 1, ousted := none } := by
  have hout : a.timesOut u = true := Annunciator.timesOut_iff.mpr ⟨Annunciator.sounding_of_unmuted hc hm, .inl ⟨hf, ht⟩⟩
  refine ⟨hout, ?_⟩
  simp [Annunciator.tick, hout, Annunciator.count, Annunciator.sounding, Annunciator.mute, hc, hm, hf]

/-- The expiry of a timer set aside at this boundary mutes the context that preempted (R129; log 33). -/
theorem Annunciator.tick_expires_ousted {n : Nat} (hc : a.current = some c) (hm : c.muted = false) (hf : a.fresh = true)
    (ho : a.ousted = some n) (ht : 10 * u.value Config.soundId ≤ n + 1) :
    a.timesOut u = true ∧ a.tick u = { a with current := some { c with muted := true }, ousted := none } := by
  have hout : a.timesOut u = true := Annunciator.timesOut_iff.mpr ⟨Annunciator.sounding_of_unmuted hc hm, .inr ⟨n, ho, ht⟩⟩
  refine ⟨hout, ?_⟩
  simp [Annunciator.tick, hout, Annunciator.count, Annunciator.sounding, Annunciator.mute, hc, hm, hf]

/-- A muted context, and one that started at this boundary, counts nothing (R126; log 17). -/
theorem Annunciator.tick_waits (hc : a.current = some c) (ho : a.ousted = none) (hw : c.muted = true ∨ a.fresh = true) :
    a.timesOut u = false ∧ a.tick u = a := by
  have hout : a.timesOut u = false := Bool.eq_false_iff.mpr fun h => by
    obtain ⟨hsounds, ⟨hfresh, -⟩ | ⟨n, hn, -⟩⟩ := Annunciator.timesOut_iff.mp h
    · rcases hw with h | h
      · simp [Annunciator.sounding, hc, h] at hsounds
      · exact Bool.eq_false_iff.mp hfresh h
    · exact absurd (ho.symm.trans hn) (by simp)
  have hcount : a.count = a := by
    rcases hw with h | h <;> simp [Annunciator.count, Annunciator.sounding, hc, h]
  have hadvance : a.advance = a := by
    rcases hw with h | h <;> simp [Annunciator.advance, hc, h]
  refine ⟨hout, ?_⟩
  rw [Annunciator.tick, hout, if_neg Bool.false_ne_true, hcount, hadvance, ← ho]

/-- Short of the timeout the timer rises by 1 and the pattern advances (R126, R127). -/
theorem Annunciator.tick_counts (hc : a.current = some c) (ho : a.ousted = none) (hm : c.muted = false) (hf : a.fresh = false)
    (ht : a.timer + 1 < 10 * u.value Config.soundId) :
    a.timesOut u = false
      ∧ a.tick u = { a with timer := a.timer + 1, phase := (a.phase + 1) % patternCycle c.priority } := by
  have hout : a.timesOut u = false := Bool.eq_false_iff.mpr fun h => by
    obtain ⟨-, ⟨-, hlate⟩ | ⟨n, hn, -⟩⟩ := Annunciator.timesOut_iff.mp h
    · omega
    · exact absurd (ho.symm.trans hn) (by simp)
  refine ⟨hout, ?_⟩
  simp [Annunciator.tick, hout, Annunciator.count, Annunciator.advance, Annunciator.sounding, hc, hm, hf, ho]

end

/-- The Alert Unit's share short of an expiry. -/
theorem alertTick_quiet {s : State} (h : s.ann.timesOut s.settings = false) : s.alertTick = s.withAnn (s.ann.tick s.settings) :=
  if_neg (Bool.eq_false_iff.mp h)

/-- Its share at an expiry: a mute changes nothing that the evaluation after it looks at. -/
theorem alertTick_expires {s : State} (hs : s.Settled) (h : s.ann.timesOut s.settings = true) :
    s.alertTick = s.withAnn (s.ann.tick s.settings) := by
  have hmuted := hs.of_flagsStand (.of_contexts (s.ann.tick_sameContexts s.settings))
  exact (if_pos h).trans hmuted.settle_eq

/-- SOUND_TIMEOUT takes the Alert Unit's share of the boundary. -/
theorem exec_soundTimeout {s : State} (hs : s.Settled) (ha : s.awaits .alertTick = true) (h : s.ann.timesOut s.settings = true) :
    exec .soundTimeout s = .next ((s.without .alertTick).withAnn (s.ann.tick s.settings)) := by
  show Host.Outcome.next (if s.ann.timesOut s.settings then s.take .alertTick else s) = _
  rw [if_pos h, State.take, if_pos ha]
  have hshare := alertTick_expires (hs.of_flagsStand (without_flagsStand s .alertTick)) h
  exact congrArg _ ((takeOne_awaited ha).trans hshare)

/-! ### BUZ (R126) -/

/-- The phases in which BUZ is high: the first two, and in the middle priorities two more pairs. -/
theorem mem_patternHigh {p n : Nat} :
    n ∈ patternHigh p ↔ n = 0 ∨ n = 1 ∨ (6 ≤ p ∧ p ≤ 11 ∧ (n = 4 ∨ n = 5 ∨ n = 8 ∨ n = 9)) := by
  unfold patternHigh
  split
  · simp only [List.mem_cons, List.not_mem_nil, or_false]; omega
  · split <;> (simp only [List.mem_cons, List.not_mem_nil, or_false]; omega)

theorem buz_iff {s : State} : s.buz = true ↔ s.held = false ∧ ∃ c, s.ann.current = some c ∧ c.muted = false
    ∧ s.ann.phase ∈ patternHigh c.priority := by
  unfold State.buz
  cases s.ann.current <;> simp

/-- Settles O31: an expiry mutes, which leaves nothing for the evaluation that follows it. -/
theorem soundTimeoutMutes : Obligations.SoundTimeoutMutes := by
  refine ⟨fun s c hs ha hc hm hf ht => ?_, fun s c n hs ha hc hm hf ho ht => ?_, fun u a slot kind c hc hm hf ho hlt hother => ?_,
    fun _ => rfl, fun s c hc ho => ⟨fun hw => ?_, fun hm hf ht => ?_⟩, fun s => ?_⟩
  · obtain ⟨hout, htick⟩ := Annunciator.tick_expires hc hm hf ht
    exact ⟨_, exec_soundTimeout hs ha hout, buz_muted (by rw [State.withAnn_ann, htick]) rfl, by rw [htick]; rfl⟩
  · obtain ⟨hout, htick⟩ := Annunciator.tick_expires_ousted hc hm hf ho ht
    exact ⟨_, exec_soundTimeout hs ha hout, buz_muted (by rw [State.withAnn_ann, htick]) rfl, by rw [htick]; rfl⟩
  · rw [Annunciator.evaluate_preempts (b := (slot, kind)) hc (Bool.eq_false_iff.mpr (mt Context.presents_iff.mp hother)) hlt]
    simp [Annunciator.oust, Annunciator.sounding, hc, hm, hf, ho]
  · obtain ⟨hout, htick⟩ := Annunciator.tick_waits (u := s.settings) hc ho hw
    rw [alertTick_quiet hout, htick]
    rfl
  · obtain ⟨hout, htick⟩ := Annunciator.tick_counts hc ho hm hf ht
    rw [alertTick_quiet hout, htick]
    rfl
  · simp only [buz_iff, mem_patternHigh]

/-! ### The annunciator after an accepted command -/

/-- A command's answer leaves the annunciator of its work, the mark aside (log 17). -/
theorem conclude_ann (s x : State) (p : Port) (tag : Byte) (data : List Byte) :
    (s.conclude p tag (.ok (x, data))).ann = { x.ann with fresh := (s.conclude p tag (.ok (x, data))).ann.fresh } := by
  cases p <;> rfl

theorem conclude_ann_same {s x : State} (h : x.ann = s.ann) (p : Port) (tag : Byte) (data : List Byte) :
    (s.conclude p tag (.ok (x, data))).ann = s.ann := by
  rw [conclude_ok p tag data h, reply_ann, h]

/-- A command whose work is on the annunciator changes nothing else but its port. -/
theorem conclude_withAnn (s : State) (a : Annunciator) (p : Port) (tag : Byte) (data : List Byte) :
    s.conclude p tag (.ok (s.withAnn a, data)) = { s.reply p ⟨tag, .ok, data⟩ with
      ann := { a with fresh := (s.conclude p tag (.ok (s.withAnn a, data))).ann.fresh } } := by
  cases p <;> rfl

/-! ### SILENCE (R128, R155) -/

/-- Without a context SILENCE finds nothing to mute. -/
theorem silence_idle {s : State} (h : s.ann.current = none) (p : Port) (bytes : List Byte) :
    silenceBody p bytes s = .ok (s, [0#8, 0#8]) := by
  have hmute : s.ann.mute = s.ann := by rw [Annunciator.mute, h, Option.map_none, ← h]
  simp only [silenceBody, State.maySilence, State.silencedBytes, h, hmute, if_true]
  rfl

/-- A context is muted where the port has FULL access to its station, and the panel has it everywhere. -/
theorem silence_mutes {s : State} {c : Context} (h : s.ann.current = some c) {p : Port}
    (hp : p = .remote → ∃ r, s.table.rec? c.slot = some r ∧ s.settings.permission r.station = 2) (bytes : List Byte) :
    silenceBody p bytes s = .ok (s.withAnn s.ann.mute, [byteOf c.slot, byteOf c.kind.num]) := by
  have hmay : s.maySilence p = true := by
    cases p with
    | panel => simp [State.maySilence, h]
    | remote =>
      obtain ⟨r, hr, hfull⟩ := hp rfl
      simp [State.maySilence, h, Table.stationOf?, hr, State.fullAccess, hfull]
  rw [silenceBody, if_pos hmay, State.silencedBytes, h]

/-- Settles O50: idle, muted, denied. -/
theorem silenceMutesTheContext : Obligations.SilenceMutesTheContext := by
  intro s p bytes htakes
  refine ⟨fun h => ?_, fun c h hp => ?_, fun c r h hr hperm hp => ?_⟩
  · exact execute_accepts htakes (silence_idle (by simpa using h) p bytes) (takeCommand_ann s p)
  · have hbody := silence_mutes (s := s.takeCommand p) (p := p) (by simpa using h) (by simpa using hp) bytes
    have hmute : s.ann.mute = { s.ann with current := some { c with muted := true } } := by rw [Annunciator.mute, h]; rfl
    have hconclude := conclude_withAnn (s.takeCommand p) (s.takeCommand p).ann.mute p (tagOf bytes) [byteOf c.slot, byteOf c.kind.num]
    rw [takeCommand_ann, hmute] at hbody hconclude
    refine ⟨_, (execute_takes silenceBody htakes).trans (by rw [hbody]), ?_, hconclude⟩
    exact buz_muted (congrArg (fun t => t.ann.current) hconclude) rfl
  · subst hp
    refine execute_refuses htakes ?_
    have hmay : (s.takeCommand .remote).maySilence .remote = false := by
      simp [State.maySilence, h, Table.stationOf?, hr, State.fullAccess, hperm]
    rw [silenceBody, if_neg (Bool.eq_false_iff.mp hmay)]

end Sys2Proof.Machine
end


section
/-! PROOFS. The signalling lines PATTN, RATTN and READY (R130, R162): O36. -/

namespace Sys2Proof.Machine

/-! ### Pending alerts, or none (R130) -/

theorem pendingAlerts_isEmpty {t : Table} {u : SettingsUnit} {v : Nat → Bool} :
    (pendingAlerts t u v).isEmpty = false ↔ ∃ k ∈ allSlots, ∃ r, t.rec? k = some r ∧ v r.station = true
      ∧ ∃ kind, r.hasAlert kind = true ∧ 1 ≤ u.priority kind := by
  rw [List.isEmpty_eq_false_iff_exists_mem]
  simp only [mem_pendingAlerts_iff, Table.waits, Prod.exists]
  exact ⟨fun ⟨k, kind, hk, r, hr, hv, hflag⟩ => ⟨k, hk, r, hr, hv, kind, hflag⟩,
    fun ⟨k, hk, r, hr, hv, kind, hflag⟩ => ⟨k, kind, hk, r, hr, hv, hflag⟩⟩

theorem pendingAlerts_empty {t : Table} (h : t = .empty) (u : SettingsUnit) (v : Nat → Bool) : (pendingAlerts t u v).isEmpty = true := by
  refine Bool.eq_true_of_not_eq_false fun hp => ?_
  obtain ⟨k, -, r, hr, -⟩ := pendingAlerts_isEmpty.mp hp
  rw [h, Table.empty_rec?] at hr
  simp at hr

/-- Over an empty table nothing is signalled. -/
theorem attention_of_empty {s : State} (h : s.table = .empty) : s.pattn = false ∧ s.rattn = false := by
  constructor <;> simp [State.pattn, State.rattn, pendingAlerts_empty h]

theorem pattn_iff {s : State} (h : s.held = false) : s.pattn = true ↔ ∃ k ∈ allSlots, ∃ r, s.table.rec? k = some r
    ∧ ∃ kind, r.hasAlert kind = true ∧ 1 ≤ s.settings.priority kind := by
  have hp := pendingAlerts_isEmpty (t := s.table) (u := s.settings) (v := fun _ => true)
  simp only [true_and] at hp
  rw [← hp, State.pattn, h, Bool.not_false, Bool.true_and, Bool.not_eq_true']

theorem rattn_iff {s : State} (h : s.held = false) : s.rattn = true ↔ ∃ k ∈ allSlots, ∃ r, s.table.rec? k = some r
    ∧ 1 ≤ s.settings.permission r.station ∧ ∃ kind, r.hasAlert kind = true ∧ 1 ≤ s.settings.priority kind := by
  have hp := pendingAlerts_isEmpty (t := s.table) (u := s.settings) (v := portViews s.settings .remote)
  simp only [portViews, decide_eq_true_eq] at hp
  rw [← hp, State.rattn, h, Bool.not_false, Bool.true_and, Bool.not_eq_true']

/-! ### READY (R162) -/

theorem ready_iff {s : State} (h : s.held = false) : s.ready = true ↔ s.panel.replies ≠ [] := by
  simp [State.ready, h]

/-- An accepted command leaves its own reply in the panel queue. -/
theorem ready_of_conclude {s t : State} {tag : Byte} {data : List Byte} (h : t.held = false) :
    (s.conclude .panel tag (.ok (t, data))).ready = true := by
  refine (ready_iff ?_).mpr ?_
  · exact h
  · simp [State.conclude, State.reply]

/-- Settles O36: each line is read off the table, the settings, the reply queue and RESETn. -/
theorem signallingLinesFollowTheState : Obligations.SignallingLinesFollowTheState := by
  refine ⟨fun s h => ⟨pattn_iff h, rattn_iff h⟩, fun s h => by simp [State.pattn, State.rattn, h], fun radr status landed s t h => ?_,
    fun s => attention_of_empty rfl, fun s a => ⟨rfl, rfl⟩, fun s h => ready_iff h, fun s h => by simp [State.ready, h],
    fun radr status landed s t h => ?_, fun s t bytes hheld htakes h => ?_⟩
  · rw [← outcome_next_inj h]
    exact attention_of_empty rfl
  · rw [← outcome_next_inj h]
    rfl
  · have hexec : exec .softReset s = _ := execute_takes softResetBody htakes
    rw [hexec] at h
    rw [← outcome_next_inj h]
    exact ready_of_conclude hheld

end Sys2Proof.Machine
end


section
/-! PROOFS. SET ITEM and GRANT (R118, R125, R142, R149, R171, R172): O53. -/

namespace Sys2Proof.Machine

/-! ### Values replaced (R172) -/

/-- The settings as an accepted SET ITEM leaves them (R172). -/
def SettingsUnit.afterItem (u : SettingsUnit) (id v : Nat) : SettingsUnit :=
  if id = Config.budgetId then u.setBudget v else u.withValue id v

theorem SettingsUnit.afterItem_value {u : SettingsUnit} {id : Nat} (hlen : u.values.length = 29)
    (h : itemIndex id < Config.items.length) (v : Nat) : (u.afterItem id v).value id = v := by
  unfold SettingsUnit.afterItem
  split
  · next hid =>
    subst hid
    exact (SettingsUnit.value_withValue_other (by decide) _).trans (SettingsUnit.value_withValue_known hlen h v)
  · exact SettingsUnit.value_withValue_known hlen h v

/-- A new budget brings the shed budget down with it (R172). -/
theorem SettingsUnit.afterItem_value_shed {u : SettingsUnit} (hlen : u.values.length = 29) (v : Nat) :
    (u.afterItem Config.budgetId v).value Config.shedId = min v (u.value Config.shedId) := by
  rw [SettingsUnit.afterItem, if_pos rfl, SettingsUnit.setBudget]
  exact SettingsUnit.value_withValue_known (by simpa [SettingsUnit.withValue] using hlen) (by decide) _

theorem SettingsUnit.afterItem_value_other {u : SettingsUnit} {id id' : Nat} (h : itemIndex id < Config.items.length) (v : Nat)
    (hne : id' ≠ id) (hshed : ¬(id = Config.budgetId ∧ id' = Config.shedId)) : (u.afterItem id v).value id' = u.value id' := by
  unfold SettingsUnit.afterItem
  split
  · next hid =>
    have hother := SettingsUnit.value_withValue_ne (u := u.withValue Config.budgetId v) (id := Config.shedId) (id' := id') (by decide)
      (fun he => hshed ⟨hid, he⟩) (min v (u.value Config.shedId))
    exact hother.trans (SettingsUnit.value_withValue_ne (by decide) (hid ▸ hne) v)
  · exact SettingsUnit.value_withValue_ne h hne v

/-! ### What a change of a setting leaves alone -/

theorem setPermission_sameHost (s : State) (st v : Nat) :
    (s.withSettings (s.settings.withValue (0x50 + st) v)).SameHost (s.setPermission st v) :=
  .ite (settleFrom_sameHost (retireAll_sameHost _ _ _) s) (.rfl' _)

theorem setItem_sameHost (s : State) (id v : Nat) : (s.withSettings (s.settings.afterItem id v)).SameHost (s.setItem id v) := by
  unfold State.setItem SettingsUnit.afterItem
  split
  · exact .rfl' _
  · split
    · rw [setPriority_eq]
      exact withAnn_sameHost (s.withSettings _) _
    · split
      · next hid =>
        have hst : 0x50 + (id - 0x50) = id := by omega
        have hsame := setPermission_sameHost s (id - 0x50) v
        rwa [hst] at hsame
      · exact .rfl' _

/-- Only a change of a permission retires records. -/
theorem setItem_records {id : Nat} (h : ¬(0x50 ≤ id ∧ id ≤ 0x57)) (s : State) (v : Nat) :
    (s.setItem id v).table = s.table ∧ (s.setItem id v).burners = s.burners ∧ (s.setItem id v).app = s.app := by
  unfold State.setItem
  split
  · exact ⟨rfl, rfl, rfl⟩
  · split
    · rw [setPriority_eq]
      exact ⟨rfl, rfl, rfl⟩
    · exact ⟨rfl, rfl, rfl⟩

/-! ### The Alert Unit's part (R121, R125) -/

theorem State.AnnTaken.of_eq {s t : State} (hann : t.ann = s.ann) (htable : t.table = s.table) : s.AnnTaken t :=
  ⟨fun _ => hann, fun h => absurd (by rw [htable]) h⟩

theorem retireAll_ann (s : State) (ks : List Nat) (promotes : Bool) : (s.retireAll ks promotes).ann = s.ann :=
  Chains.foldl (R := fun s t => t.ann = s.ann) ⟨fun _ => rfl, fun h g => g.trans h⟩ (fun s k => retire_ann s k promotes ks) ks s

theorem setPermission_annTaken (s : State) (st v : Nat) : s.AnnTaken (s.setPermission st v) := by
  unfold State.setPermission
  dsimp only
  split
  · exact settleFrom_annTaken (retireAll_ann _ _ _)
  · exact .of_eq rfl rfl

theorem setItem_annTaken {s : State} {id v : Nat} (h : ¬(0x40 ≤ id ∧ id ≤ 0x45) ∨ s.settings.value id = v) :
    s.AnnTaken (s.setItem id v) := by
  unfold State.setItem
  split
  · exact .of_eq rfl rfl
  · split
    · next hpriority =>
      rw [State.setPriority, if_pos (h.resolve_left (not_not.mpr hpriority))]
      exact .of_eq rfl rfl
    · split
      · exact setPermission_annTaken s _ v
      · exact .of_eq rfl rfl

/-- A priority that changes is followed by the Alert Unit's event. -/
theorem setItem_priority {s : State} {id v : Nat} (hlow : 0x40 ≤ id) (hhigh : id ≤ 0x45) (h : s.settings.value id ≠ v) :
    s.setItem id v = (s.withSettings (s.settings.withValue id v)).settle := by
  have hb : ¬ id = Config.budgetId := by simp only [Config.budgetId]; omega
  rw [State.setItem, if_neg hb, if_pos ⟨hlow, hhigh⟩, State.setPriority, if_neg h]

/-- The Alert Unit's part of a command is that of the command's work (log 17). -/
theorem State.AnnTaken.conclude {s x : State} {p : Port} (h : (s.takeCommand p).AnnTaken x) (tag : Byte) (data : List Byte) :
    s.AnnTaken ((s.takeCommand p).conclude p tag (.ok (x, data))) := by
  obtain ⟨hsame, hchanged⟩ := h
  rw [takeCommand_table] at hsame hchanged
  have htable : ((s.takeCommand p).conclude p tag (.ok (x, data))).table = x.table := by cases p <;> rfl
  refine ⟨fun hp => ?_, fun hp => ?_⟩
  · have hann := hsame (htable ▸ hp)
    rw [conclude_ann_same hann, takeCommand_ann]
  · rw [conclude_ann, hchanged (htable ▸ hp)]
    cases p <;> rfl

/-! ### The commands (R142, R149, R172) -/

/-- A store under way refuses both (R142). -/
theorem settings_refuse {s : State} {bytes : List Byte} {code : Nat} {body : Port → List Byte → State → Verdict}
    (htakes : s.Takes .panel code bytes) (hstore : s.settings.storing = true)
    (hbody : ∀ u : State, u.settings.storing = true → body .panel bytes u = .error .busy) :
    execute code body s = .next (s.answered .panel bytes .busy []) :=
  execute_refuses htakes (hbody _ (by simpa using hstore))

/-- What a SET ITEM accepts (R171, R172). -/
theorem acceptsItem_of {u : SettingsUnit} {it : Config.Item} {v : Nat} (hlow : it.low ≤ v) (hhigh : v ≤ it.high)
    (hstep : v % it.step = 0) (hshed : it.id = Config.shedId → v ≤ u.value Config.budgetId) : u.acceptsItem it v = true := by
  have hitem : itemAccepts it v = true := by simp [itemAccepts, hlow, hhigh, hstep]
  rw [SettingsUnit.acceptsItem, hitem, Bool.true_and]
  by_cases hid : it.id = Config.shedId
  · simp [hshed hid]
  · simp [hid]

/-- The settings after each of the two commands' work. -/
theorem setItem_settings (s : State) (id v : Nat) : (s.setItem id v).settings = s.settings.afterItem id v :=
  (setItem_sameHost s id v).settings

theorem setPermission_settings (s : State) (st v : Nat) : (s.setPermission st v).settings = s.settings.withValue (0x50 + st) v :=
  (setPermission_sameHost s st v).settings

/-- The work of an accepted SET ITEM, and its answer: the item as it now stands, and with a budget the shed budget it leaves (R183). -/
theorem setItem_accepts {s : State} {bytes : List Byte} {it : Config.Item} (hmem : it ∈ Config.items)
    (hlen : s.settings.values.length = 29) (hid : field bytes 2 2 = it.id) (hstore : s.settings.storing = false)
    (haccept : s.settings.acceptsItem it (field bytes 4 4) = true) :
    setItemBody .panel bytes s = .ok (s.setItem it.id (field bytes 4 4), leBytes 2 it.id ++ leBytes 4 (field bytes 4 4)
      ++ (if it.id = Config.budgetId then leBytes 4 (min (field bytes 4 4) (s.settings.value Config.shedId)) else [])) := by
  obtain ⟨i, hat⟩ := item_known hmem
  simp only [setItemBody, panelOnly, State.notStoring, hid, hat]
  rw [if_neg (by simp [hstore]), if_pos haccept, State.itemBytes, setItem_settings,
    SettingsUnit.afterItem_value hlen (itemIndex_lt hat)]
  split
  · next hb => rw [hb, SettingsUnit.afterItem_value_shed hlen]
  · rfl

theorem grant_accepts {s : State} {bytes : List Byte} (hstore : s.settings.storing = false) (hst : field bytes 2 1 ≤ 7)
    (hv : field bytes 3 1 ≤ 2) : grantBody .panel bytes s
      = .ok (s.setPermission (field bytes 2 1) (field bytes 3 1), [byteOf (s.settings.permission (field bytes 2 1))]) := by
  simp only [grantBody, panelOnly, State.notStoring]
  rw [if_neg (by simp [hstore]), if_neg (by omega)]

/-- The replies of a port after an accepted command: its own is the last. -/
theorem conclude_replies {s x : State} (h : x.panel = s.panel) (tag : Byte) (data : List Byte) :
    (s.conclude .panel tag (.ok (x, data))).replies .panel = s.replies .panel ++ [⟨tag, .ok, data⟩] := by
  show x.panel.replies ++ _ = _
  rw [h]
  rfl

/-- Settles O53: SET ITEM by the kind of the item, GRANT as a change of a permission. -/
theorem setItemAndGrantReplaceSettings : Obligations.SetItemAndGrantReplaceSettings := by
  refine ⟨fun s bytes it hmem hlen htakes hid => ⟨fun hstore => ?_, fun hstore hlow hhigh hstep hshed => ?_⟩,
    fun s bytes hlen htakes => ⟨fun hstore => ?_, fun hstore hst hv => ?_⟩⟩
  · exact settings_refuse htakes hstore fun u hu => by simp [setItemBody, panelOnly, State.notStoring, hu]
  · let u := s.takeCommand .panel
    let v := field bytes 4 4
    obtain ⟨_, hat⟩ := item_known hmem
    have hknown := itemIndex_lt hat
    have hhost := setItem_sameHost u it.id v
    have hset : (u.setItem it.id v).settings = s.settings.afterItem it.id v := setItem_settings u _ _
    have hbody := setItem_accepts (s := u) hmem hlen hid hstore (acceptsItem_of hlow hhigh hstep hshed)
    refine ⟨u.conclude .panel (tagOf bytes) (.ok (u.setItem it.id v, _)), (execute_takes setItemBody htakes).trans (by rw [hbody]; rfl),
      conclude_replies hhost.panel _ _, ?_, fun id hne hb => ?_, fun hb => ?_, hhost.time, hhost.memory, hhost.snap,
      fun hlow hhigh hchange => ?_, fun h => (setItem_annTaken (s := u) h).conclude _ _, fun h => setItem_records h u _⟩
    · exact (congrArg (SettingsUnit.value · it.id) hset).trans (SettingsUnit.afterItem_value hlen hknown v)
    · exact (congrArg (SettingsUnit.value · id) hset).trans (SettingsUnit.afterItem_value_other hknown v hne hb)
    · refine (congrArg (SettingsUnit.value · 0x31) hset).trans ?_
      rw [hb]
      exact SettingsUnit.afterItem_value_shed hlen v
    · rw [conclude_ann, setItem_priority (s := u) hlow hhigh hchange]
      rfl
  · exact settings_refuse htakes hstore fun u hu => by simp [grantBody, panelOnly, State.notStoring, hu]
  · let u := s.takeCommand .panel
    let st := field bytes 2 1
    let v := field bytes 3 1
    obtain ⟨_, _, hat, -, -⟩ := permission_item hst
    have hknown := itemIndex_lt hat
    have hset : (u.setPermission st v).settings = s.settings.withValue (0x50 + st) v := setPermission_settings u _ _
    refine ⟨u.conclude .panel (tagOf bytes) (.ok (u.setPermission st v, _)),
      (execute_takes grantBody htakes).trans (by rw [grant_accepts (s := u) hstore hst hv]; rfl),
      conclude_replies (setPermission_sameHost u st v).panel _ _, ?_, fun id hne => ?_, fun hstays => ?_⟩
    · exact (congrArg (SettingsUnit.value · _) hset).trans (SettingsUnit.value_withValue_known hlen hknown _)
    · exact (congrArg (SettingsUnit.value · id) hset).trans (SettingsUnit.value_withValue_ne hknown hne _)
    · have hnone : u.setPermission st v = u.withSettings (s.settings.withValue (0x50 + st) v) :=
        if_neg fun h => hstays.elim (fun hp => hp h.1) h.2
      rw [hnone]
      have hann : (u.withSettings (s.settings.withValue (0x50 + st) v)).ann = u.ann := rfl
      exact ⟨rfl, conclude_ann_same hann .panel (tagOf bytes) [byteOf (s.settings.permission st)]⟩

end Sys2Proof.Machine
end


section
/-! SUPPORT. The work of each of the twenty-two commands by its code, the verdicts it can give, and what it leaves of the queues of both
ports (R135, R137, R139). -/

namespace Sys2Proof.Machine

/-! ### The work by code (R180) -/

/-- The work of the command of a code. -/
def workOf (code : Nat) : Port → List Byte → State → Verdict :=
  match code with
  | 0x10 => createBody
  | 0x11 => retireBody
  | 0x12 => pauseBody
  | 0x13 => resumeBody
  | 0x14 => adjustBody
  | 0x15 => setLevelBody
  | 0x16 => skipBody
  | 0x17 => startBody
  | 0x20 => queryBody
  | 0x21 => listBody
  | 0x30 => nextAlertBody
  | 0x31 => ackBody
  | 0x32 => silenceBody
  | 0x40 => setClockBody
  | 0x41 => windowBody
  | 0x50 => setItemBody
  | 0x51 => getItemBody
  | 0x52 => storeSettingsBody
  | 0x53 => settingsStatusBody
  | 0x60 => grantBody
  | 0x61 => softResetBody
  | 0x62 => stationResetBody
  | _ => fun _ _ _ => .error .badCommand

/-- Each of the twenty-two command rows is the Command Unit's execution of its work. -/
theorem exec_eq_execute {c : Instr} {code : Nat} (hcode : commandCode c = some code) (s : State) :
    exec c s = execute code (workOf code) s := by
  cases c <;> cases hcode <;> rfl

/-- A command taken is refused by its own work. -/
theorem exec_refuses {c : Instr} {code : Nat} (hcode : commandCode c = some code) {s : State} {p : Port} {bytes : List Byte}
    {rc : ResultCode} (h : s.Takes p code bytes) (hw : workOf code p bytes (s.takeCommand p) = .error rc) :
    exec c s = .next (s.answered p bytes rc []) :=
  (exec_eq_execute hcode s).trans (execute_refuses h hw)

/-! ### What a verdict can be (R139) -/

/-- The verdict refuses with a code other than OK, or accepts with a state that has the property. -/
def Answers (P : State → Prop) : Verdict → Prop
  | .error c => c ≠ .ok
  | .ok (t, _) => P t

namespace Answers

variable {P : State → Prop} {s : State} {p : Port} {v w : Verdict}

theorem ite {c : Prop} [Decidable c] (h : Answers P v) (g : Answers P w) : Answers P (if c then v else w) := by
  split
  · exact h
  · exact g

theorem refused {c : ResultCode} (h : c ≠ .ok) : Answers P (.error c) := h

theorem accepted {t : State} {data : List Byte} (h : P t) : Answers P (.ok (t, data)) := h

theorem withRecord {k : Nat} {work : Record → Verdict} (h : ∀ r, Answers P (work r)) : Answers P (s.withRecord p k work) := by
  refine .ite (refused nofun) ?_
  split
  · exact refused nofun
  · exact .ite (h _) (refused nofun)

theorem allowed {st : Nat} {limit : Bool} (h : Answers P v) : Answers P (s.allowed p st limit v) :=
  .ite (refused nofun) (.ite (refused nofun) h)

theorem inState {ok : Bool} (h : Answers P v) : Answers P (inState ok v) := .ite h (refused nofun)

theorem guarded {starts : Bool} (h : Answers P v) : Answers P (guarded p starts v) := .ite (refused nofun) h

theorem panelOnly (h : Answers P v) : Answers P (panelOnly p v) := by
  cases p with
  | panel => exact h
  | remote => exact refused nofun

theorem notStoring (h : Answers P v) : Answers P (s.notStoring v) := .ite (refused nofun) h

end Answers

/-! ### The queues of both ports (R136, R137) -/

/-- The queues of both ports, and the port last served, stand. -/
structure State.SameQueues (s t : State) : Prop where
  commands : ∀ p, t.commands p = s.commands p
  replies : ∀ p, t.replies p = s.replies p
  lastServed : t.lastServed = s.lastServed

namespace State.SameQueues

theorem of_ports {s t : State} (hp : t.panel = s.panel) (hr : t.remote = s.remote) (hl : t.lastServed = s.lastServed) :
    s.SameQueues t where
  commands p := by cases p <;> simp only [State.commands, hp, hr]
  replies p := by cases p <;> simp only [State.replies, hp, hr]
  lastServed := hl

theorem refl (s : State) : s.SameQueues s := of_ports rfl rfl rfl

theorem trans {s t u : State} (h : s.SameQueues t) (g : t.SameQueues u) : s.SameQueues u :=
  ⟨fun p => (g.commands p).trans (h.commands p), fun p => (g.replies p).trans (h.replies p), g.lastServed.trans h.lastServed⟩

end State.SameQueues

theorem State.SameHost.sameQueues {s t : State} (h : s.SameHost t) : s.SameQueues t := .of_ports h.panel h.remote h.lastServed

theorem withSettings_sameQueues (s : State) (u : SettingsUnit) : s.SameQueues (s.withSettings u) := .of_ports rfl rfl rfl

theorem withTime_sameQueues (s : State) (u : TimeBase) : s.SameQueues (s.withTime u) := .of_ports rfl rfl rfl

/-- Work on records, and the Alert Unit's part of it, leave the queues alone. -/
theorem settleFrom_sameQueues {s t : State} (h : s.SameHost t) : s.SameQueues (settleFrom s t) := (settleFrom_sameHost h s).sameQueues

theorem setPermission_sameQueues (s : State) (st v : Nat) : s.SameQueues (s.setPermission st v) :=
  (withSettings_sameQueues s _).trans (setPermission_sameHost s st v).sameQueues

theorem setItem_sameQueues (s : State) (id v : Nat) : s.SameQueues (s.setItem id v) :=
  (withSettings_sameQueues s _).trans (setItem_sameHost s id v).sameQueues

theorem createChecked_answers (s : State) (p : Port) (c : CreateParams) (sc : StartCondition) :
    Answers s.SameQueues (s.createChecked p c sc) := by
  refine .ite (.refused nofun) (.ite (.refused nofun) (.ite (.refused nofun) ?_))
  split
  · exact .refused nofun
  · refine .ite (.refused nofun) (.accepted (State.SameHost.sameQueues ?_))
    exact .ite ((withTable_sameHost s _).trans (place_sameHost _ _)) (withTable_sameHost s _)

theorem create_answers (p : Port) (bytes : List Byte) (s : State) : Answers s.SameQueues (createBody p bytes s) := by
  unfold createBody
  split
  · exact .refused nofun
  · refine .ite ?_ (.refused nofun)
    split
    · exact .refused nofun
    · exact .allowed (createChecked_answers s p _ _)

theorem adjust_answers (p : Port) (bytes : List Byte) (s : State) : Answers s.SameQueues (adjustBody p bytes s) := by
  refine .ite (.refused nofun) (.withRecord fun r => .allowed ?_)
  split
  · exact .refused nofun
  · exact .accepted (settleFrom_sameQueues (modify_sameHost s _ _))

theorem ack_answers (p : Port) (bytes : List Byte) (s : State) : Answers s.SameQueues (ackBody p bytes s) := by
  unfold ackBody
  dsimp only
  split
  · exact .refused nofun
  · exact .withRecord fun r => .allowed (.accepted (settleFrom_sameQueues (.ite (retire_sameHost s _ _ _) (modify_sameHost s _ _))))

theorem setItem_answers (p : Port) (bytes : List Byte) (s : State) : Answers s.SameQueues (setItemBody p bytes s) := by
  refine .panelOnly (.notStoring ?_)
  dsimp only
  split
  · exact .refused nofun
  · exact .ite (.accepted (setItem_sameQueues s _ _)) (.refused nofun)

theorem getItem_answers (p : Port) (bytes : List Byte) (s : State) : Answers s.SameQueues (getItemBody p bytes s) := by
  unfold getItemBody
  dsimp only
  split
  · exact .refused nofun
  · exact .accepted (.refl s)

/-- SET CLOCK writes the reading, and places records. -/
theorem setClock_answers (p : Port) (bytes : List Byte) (s : State) : Answers s.SameQueues (setClockBody p bytes s) :=
  .ite (.refused nofun) (.guarded (.accepted ((withTime_sameQueues s _).trans (placeAll_sameHost _ _).sameQueues)))

/-- Every command but SOFT RESET leaves the queues to its answer. -/
theorem workOf_answers {c : Instr} {code : Nat} (hcode : commandCode c = some code) (hne : c ≠ .softReset) (p : Port)
    (bytes : List Byte) (u : State) : Answers u.SameQueues (workOf code p bytes u) := by
  cases c with
  | create => cases hcode; exact create_answers p bytes u
  | retire => cases hcode; exact .withRecord fun _ => .allowed (.guarded (.accepted (settleFrom_sameQueues (retire_sameHost u _ _ _))))
  | pause =>
    cases hcode
    exact .withRecord fun _ => .allowed (.inState (.accepted
      (((modify_sameHost u _ _).trans (dropElements_sameHost _ _ _)).trans (follow_sameHost _ _)).sameQueues))
  | resume =>
    cases hcode
    exact .withRecord fun _ => .allowed (.inState (.accepted ((modify_sameHost u _ _).trans (follow_sameHost _ _)).sameQueues))
  | adjust => cases hcode; exact adjust_answers p bytes u
  | setLevel =>
    cases hcode
    exact .ite (.refused nofun) (.withRecord fun _ => .ite (.refused nofun) (.allowed (.inState (.accepted
      ((modify_sameHost u _ _).trans (follow_sameHost _ _)).sameQueues))))
  | skip =>
    cases hcode
    exact .withRecord fun _ => .allowed (.inState (.guarded (.accepted
      (settleFrom_sameQueues ((endStage_sameHost u _ _).trans (modify_sameHost _ _ _))))))
  | start => cases hcode; exact .withRecord fun _ => .allowed (.inState (.accepted (place_sameHost u _).sameQueues))
  | query => cases hcode; exact .withRecord fun _ => .accepted (.refl u)
  | list => cases hcode; exact .ite (.refused nofun) (.accepted (.refl u))
  | nextAlert => cases hcode; exact .accepted (.refl u)
  | ack => cases hcode; exact ack_answers p bytes u
  | silence => cases hcode; exact .ite (.accepted (withAnn_sameHost u _).sameQueues) (.refused nofun)
  | setClock => cases hcode; exact setClock_answers p bytes u
  | window => cases hcode; exact .panelOnly (.ite (.accepted ⟨fun q => by cases q <;> rfl, fun q => by cases q <;> rfl, rfl⟩) (.refused nofun))
  | setItem => cases hcode; exact setItem_answers p bytes u
  | getItem => cases hcode; exact getItem_answers p bytes u
  | storeSettings => cases hcode; exact .panelOnly (.notStoring (.accepted (.of_ports rfl rfl rfl)))
  | settingsStatus => cases hcode; exact .accepted (.refl u)
  | grant =>
    cases hcode
    exact .panelOnly (.notStoring (.ite (.refused nofun) (.accepted (setPermission_sameQueues u _ _))))
  | softReset => exact absurd rfl hne
  | stationReset =>
    cases hcode
    exact .panelOnly (.ite (.refused nofun) (.accepted (stationReset_sameHost u _).sameQueues))
  | _ => cases hcode

end Sys2Proof.Machine
end


section
/-! PROOFS. The arbiter's choice, and the one reply to each command taken (R135 to R137, R139, R157): O37, O38. -/

namespace Sys2Proof.Machine

/-! ### Queues after a taking and a reply (R135, R136) -/

theorem takeCommand_commands (s : State) (p : Port) :
    (s.takeCommand p).commands p = (s.commands p).tail ∧ (s.takeCommand p).commands p.other = s.commands p.other := by
  cases p <;> exact ⟨rfl, rfl⟩

@[simp] theorem takeCommand_replies (s : State) (p q : Port) : (s.takeCommand p).replies q = s.replies q := by
  cases p <;> cases q <;> rfl

@[simp] theorem reply_commands (s : State) (p : Port) (r : Reply) (q : Port) : (s.reply p r).commands q = s.commands q := by
  cases p <;> cases q <;> rfl

theorem reply_replies (s : State) (p : Port) (r : Reply) :
    (s.reply p r).replies p = s.replies p ++ [r] ∧ (s.reply p r).replies p.other = s.replies p.other := by
  cases p <;> exact ⟨rfl, rfl⟩

/-! ### What a command taken does to the queues (R139, R157) -/

/-- The queues as the work of a command leaves them to its answer: a SOFT RESET flushes them, any other lets them stand. -/
structure State.QueuesAfter (c : Instr) (s t : State) : Prop where
  lastServed : t.lastServed = s.lastServed
  flushed : c = .softReset → ∀ p, t.replies p = []
  stand : c ≠ .softReset → s.SameQueues t

theorem Answers.mono {P Q : State → Prop} {v : Verdict} (h : Answers P v) (hPQ : ∀ t, P t → Q t) : Answers Q v := by
  cases v with
  | error c => exact h
  | ok x => exact hPQ x.1 h

/-- Steps 1 and 3 of R139 stand before the work. -/
theorem Answers.judge {P : State → Prop} {v : Verdict} (h : Answers P v) (s : State) (code : Nat) (bytes : List Byte) :
    Answers P (s.judge code bytes v) := .ite (.refused nofun) (.ite (.refused nofun) h)

theorem softReset_answers (p : Port) (bytes : List Byte) (s : State) :
    Answers (s.QueuesAfter .softReset) (softResetBody p bytes s) :=
  .panelOnly (.accepted ⟨rfl, fun _ q => by cases q <;> rfl, fun h => absurd rfl h⟩)

theorem workOf_queues {c : Instr} {code : Nat} (hcode : commandCode c = some code) (p : Port) (bytes : List Byte) (s : State) :
    Answers (s.QueuesAfter c) (workOf code p bytes s) := by
  by_cases hreset : c = .softReset
  · subst hreset
    cases hcode
    exact softReset_answers p bytes s
  · exact (workOf_answers hcode hreset p bytes s).mono fun t h => ⟨h.lastServed, fun hc => absurd hc hreset, fun _ => h⟩

/-- The verdict on a command taken, by the first checks of R139 and by its work. -/
def State.verdict (s : State) (p : Port) (code : Nat) (bytes : List Byte) : Verdict :=
  (s.takeCommand p).judge code bytes (workOf code p bytes (s.takeCommand p))

theorem exec_chosen {c : Instr} {code : Nat} (hcode : commandCode c = some code) {s : State} {p : Port} {bytes : List Byte}
    (h : s.chosen = some (p, bytes)) (hc : codeOf? bytes = some code) :
    exec c s = .next ((s.takeCommand p).conclude p (tagOf bytes) (s.verdict p code bytes)) := by
  simp only [exec_eq_execute hcode, execute, h, if_pos hc]
  rfl

theorem verdict_queues {c : Instr} {code : Nat} (hcode : commandCode c = some code) (s : State) (p : Port) (bytes : List Byte) :
    Answers ((s.takeCommand p).QueuesAfter c) (s.verdict p code bytes) :=
  .judge (workOf_queues hcode p bytes _) _ _ _

/-- The answer itself keeps the port last served, and adds nothing to the commands. -/
theorem conclude_served {s : State} {c : Instr} {v : Verdict} (h : Answers (s.QueuesAfter c) v) (p : Port) (tag : Byte) :
    (s.conclude p tag v).lastServed = s.lastServed
      ∧ (c ≠ .softReset → ∀ q, (s.conclude p tag v).commands q = s.commands q) := by
  cases v with
  | error rc => exact ⟨reply_lastServed .., fun _ q => reply_commands ..⟩
  | ok x =>
    exact ⟨(reply_lastServed ..).trans h.lastServed, fun hc q => (reply_commands ..).trans ((h.stand hc).commands q)⟩

/-! ### The arbiter (R137) -/

section

variable {s : State} {p : Port}

theorem eligible_panel : s.eligible .panel = true ↔ s.panel.commands ≠ [] ∧ s.panel.replies.length < 8 := by
  simp [State.eligible]

theorem eligible_remote : s.eligible .remote = true ↔ s.remote.commands ≠ [] ∧ s.remote.replies.length < 4 := by
  simp [State.eligible]

theorem chosen_of_port (h : s.chosenPort = some p) : s.chosen = (s.commands p).head?.map (fun b => (p, b)) := by
  simp only [State.chosen, h]

/-- Of two eligible ports the one not served last. -/
theorem chosenPort_turn (h : s.eligible p = true) (hl : s.lastServed = p.other) : s.chosenPort = some p := by
  have hp : s.lastServed.other = p := by rw [hl]; cases p <;> rfl
  rw [State.chosenPort, hp, if_pos h]

/-- An eligible port alone, whichever was served last. -/
theorem chosenPort_alone (h : s.eligible p = true) (ho : ¬ s.eligible p.other = true) : s.chosenPort = some p := by
  by_cases hl : s.lastServed = p
  · rw [State.chosenPort, hl, if_neg ho, if_pos h]
  · exact chosenPort_turn h (by revert hl; cases s.lastServed <;> cases p <;> simp [Port.other])

theorem chosenPort_none (hp : ¬ s.eligible .panel = true) (hr : ¬ s.eligible .remote = true) : s.chosenPort = none := by
  have hall : ∀ q, ¬ s.eligible q = true := fun q => by cases q <;> assumption
  rw [State.chosenPort, if_neg (hall _), if_neg (hall _)]

end

/-- Settles O37: the arbiter by the two ports' eligibility, then what every command leaves of the queue it came from. -/
theorem arbiterChoosesAPort : Obligations.ArbiterChoosesAPort := by
  refine ⟨fun s => ?_, fun c code s hcode => ⟨fun hnone => ?_, fun p bytes h hc => ?_⟩, fun radr status landed s t h => ?_⟩
  · intro panel remote
    have hp : s.eligible .panel = true ↔ panel := eligible_panel
    have hr : s.eligible .remote = true ↔ remote := eligible_remote
    refine ⟨fun h ho => chosen_of_port (chosenPort_alone (hp.mpr h) (mt hr.mp ho)),
      fun ho h => chosen_of_port (chosenPort_alone (hr.mpr h) (mt hp.mp ho)),
      fun h _ hl => chosen_of_port (chosenPort_turn (hp.mpr h) hl), fun _ h hl => chosen_of_port (chosenPort_turn (hr.mpr h) hl),
      fun hnp hnr => ?_⟩
    rw [State.chosen, chosenPort_none (mt hp.mp hnp) (mt hr.mp hnr)]
  · rw [exec_eq_execute hcode, execute_waits _ _ hnone]
  · obtain ⟨hserved, hcommands⟩ := conclude_served (verdict_queues hcode s p bytes) p (tagOf bytes)
    exact ⟨_, exec_chosen hcode h hc, hserved.trans (takeCommand_lastServed s p),
      fun hne => (hcommands hne p).trans (takeCommand_commands s p).1⟩
  · exact outcome_next_inj h ▸ rfl

/-! ### One reply to each command (R135, R139) -/

/-- An accepted command is answered OK at the tail of its port's replies, and but for a SOFT RESET nothing else of the queues moves. -/
theorem conclude_accepted {s t : State} {c : Instr} {p : Port} (h : (s.takeCommand p).QueuesAfter c t) (tag : Byte) (data : List Byte) :
    let u := (s.takeCommand p).conclude p tag (.ok (t, data))
    u.replies p = (if c = .softReset then [] else s.replies p) ++ [{ tag := tag, code := .ok, data := data }]
      ∧ (c ≠ .softReset → u.commands p = (s.commands p).tail ∧ u.commands p.other = s.commands p.other
        ∧ u.replies p.other = s.replies p.other) := by
  intro u
  obtain ⟨hown, hother⟩ := reply_replies ((s.takeCommand p).afterCommand t) p { tag := tag, code := .ok, data := data }
  obtain ⟨htaken, hkept⟩ := takeCommand_commands s p
  have hcommands : ∀ q, u.commands q = t.commands q := fun q => reply_commands ..
  refine ⟨hown.trans (congrArg (· ++ _) ?_), fun hne => ?_⟩
  · show t.replies p = _
    split
    · next hreset => exact h.flushed hreset p
    · next hne => exact ((h.stand hne).replies p).trans (takeCommand_replies s p p)
  · have hstand := h.stand hne
    exact ⟨(hcommands p).trans ((hstand.commands p).trans htaken), (hcommands _).trans ((hstand.commands _).trans hkept),
      hother.trans ((hstand.replies _).trans (takeCommand_replies s p _))⟩

/-- Settles O38: the verdict on a command gives its one answer. -/
theorem aTakenCommandIsAnsweredOnce : Obligations.ATakenCommandIsAnsweredOnce := by
  refine ⟨fun c code s p bytes hcode h hc => ⟨_, exec_chosen hcode h hc, ?_⟩, fun s p bytes code data => ?_⟩
  · have hqueues := verdict_queues hcode s p bytes
    cases hv : s.verdict p code bytes with
    | error rc =>
      rw [hv] at hqueues
      exact .inl ⟨rc, hqueues, conclude_error s p bytes rc⟩
    | ok x =>
      rw [hv] at hqueues
      exact .inr ⟨x.2, conclude_accepted hqueues (tagOf bytes) x.2⟩
  · have htag : tagOf bytes = bytes.headD 0#8 := by cases bytes <;> rfl
    obtain ⟨hown, hother⟩ := reply_replies (s.takeCommand p) p { tag := tagOf bytes, code := code, data := data }
    obtain ⟨htaken, hkept⟩ := takeCommand_commands s p
    refine ⟨(reply_commands ..).trans htaken, ?_, (reply_commands ..).trans hkept, hother.trans (takeCommand_replies ..),
      (reply_lastServed ..).trans (takeCommand_lastServed ..), by cases p <;> rfl⟩
    rw [← htag, ← takeCommand_replies s p p]
    exact hown

end Sys2Proof.Machine
end


section
/-! PROOFS. WINDOW, and the entries that a READ WINDOW frame sends (R44, R80, R88, R89, R156, R165, R166, R185): O52. -/

namespace Sys2Proof.Machine

/-! ### The entries of the buffer (R88, R90) -/

/-- An entry filled at a refresh is the one of its slot's record, or the EMPTY one. -/
theorem entry_of_snapshot {b : SnapshotBuffer} {t : Table} {reading k : Nat} (h : b.entries = snapshotOf t reading) (h1 : 1 ≤ k)
    (h2 : k ≤ 48) : b.entry k = (t.rec? k).elim (Entry.empty k) (Entry.ofRecord reading k) := by
  obtain ⟨i, rfl⟩ : ∃ i, k = i + 1 := ⟨k - 1, by omega⟩
  have hi : i < 48 := by omega
  simp [SnapshotBuffer.entry, h, snapshotOf, allSlots, hi]

theorem Entry.empty_bytes (k : Nat) : (Entry.empty k).bytes = byteOf k :: List.replicate 11 0#8 := by
  simp [Entry.bytes, Entry.empty, leBytes, byteOf]

/-! ### The fields of an entry (R89, R179, R185) -/

theorem mul_flag (n : Nat) (b : Bool) : n * flag b = if b = true then n else 0 := by cases b <;> simp [flag]

theorem Record.stateByte_eq (r : Record) : r.stateByte = r.state.num + (if r.keep = true then 8 else 0)
    + (if r.flameOut = true then 16 else 0) + (if r.detached = true then 32 else 0) := by
  simp only [Record.stateByte, mul_flag]

theorem Stage.levelByte_eq (g : Stage) : g.levelByte = g.level + (if g.full = true then 128 else 0) := by
  rw [Stage.levelByte, mul_flag]

/-- The twelve bytes of a record's entry. -/
theorem Entry.ofRecord_bytes (reading k : Nat) (r : Record) : (Entry.ofRecord reading k r).bytes =
    [byteOf k, byteOf r.station, byteOf r.stateByte, byteOf (r.stage + 16 * r.stages.length),
      byteOf ((r.stageAt? r.shownIndex).elim 0 (fun g => g.level + (if g.full = true then 128 else 0)))]
    ++ leBytes 3 ((r.shownRemaining reading).getD noTime) ++ leBytes 3 (ceilSeconds r.total) ++ [r.alerts.zeroExtend 8] := by
  have hlevel : Stage.levelByte = fun g => g.level + (if g.full = true then 128 else 0) := funext Stage.levelByte_eq
  rw [← hlevel]
  rfl

/-! ### The command, and the frame that reads (R156, R165, R166) -/

/-- The work of an accepted WINDOW. -/
theorem windowBody_accepts {s : State} {bytes : List Byte} (h1 : 1 ≤ field bytes 2 1) (h2 : field bytes 2 1 ≤ field bytes 3 1)
    (h3 : field bytes 3 1 ≤ 48) : windowBody .panel bytes s = .ok (s.withPanel { s.panel with
      first := field bytes 2 1, last := field bytes 3 1, cursor := field bytes 2 1 }, []) :=
  if_pos ⟨h1, h2, h3⟩

theorem execWindowEntry_sends {s : State} {e : Option (List Byte)} (hheld : s.held = false) (hframe : s.panel.frame = .window e) :
    execWindowEntry s = .next (s.withPanel { s.panel with
      frame := .window (some (s.snap.entry s.panel.cursor).bytes), cursor := s.panel.nextCursor }) := by
  have hwindow : s.windowInProgress = true := by rw [State.windowInProgress, hframe]
  rw [execWindowEntry, hheld, hwindow]
  rfl

/-- Settles O52: the window, the cursor's way round it, and each entry's bytes by the record's state. -/
theorem windowAndItsEntries : Obligations.WindowAndItsEntries := by
  refine ⟨fun s bytes htakes h1 h2 h3 => ?_, fun s e hheld hframe => execWindowEntry_sends hheld hframe,
    fun b t reading k hb h1 h2 => ⟨fun hr => ?_, fun r hr => ?_⟩⟩
  · exact execute_accepts htakes (windowBody_accepts h1 h2 h3) (takeCommand_ann s .panel)
  · rw [entry_of_snapshot hb h1 h2, hr, Option.elim_none, Entry.empty_bytes]
  · intro seconds shown remaining
    have hremaining : (r.shownRemaining reading).getD noTime = remaining := by
      cases hs : r.state with
      | armed =>
        simp only [remaining, hs, Record.shownRemaining, Record.startCountdown]
        cases r.start.kind with
        | after => dsimp only; split <;> rfl
        | now | manual | delay | clockTime => rfl
      | queued | running | paused | held | ended => simp only [remaining, hs, Record.shownRemaining]; rfl
    rw [entry_of_snapshot hb h1 h2, hr, Option.elim_some, Entry.ofRecord_bytes, hremaining, Record.stateByte_eq, Record.shownIndex_eq]
    rfl

end Sys2Proof.Machine
end


section
/-! PROOFS. QUERY, LIST, NEXT ALERT, GET ITEM and SETTINGS STATUS (R34, R119, R133, R154, R173, R179, R183, R184): O48. -/

namespace Sys2Proof.Machine

/-! ### Commands that only answer -/

/-- A command whose work is its data alone changes nothing but its answer. -/
theorem exec_reads {c : Instr} {code : Nat} (hcode : commandCode c = some code) {s : State} {p : Port} {bytes data : List Byte}
    (h : s.Takes p code bytes) (hw : workOf code p bytes (s.takeCommand p) = .ok (s.takeCommand p, data)) :
    exec c s = .next (s.answered p bytes .ok data) :=
  (exec_eq_execute hcode s).trans (execute_accepts h hw (takeCommand_ann s p))

/-- Steps 6 and 7 of R139 pass where the port may view the record of the slot named. -/
theorem withRecord_seen {s : State} {p : Port} {k : Nat} {r : Record} (h1 : 1 ≤ k) (h2 : k ≤ 48) (hr : s.table.rec? k = some r)
    (hv : portViews s.settings p r.station = true) (work : Record → Verdict) : s.withRecord p k work = work r := by
  unfold State.withRecord
  rw [if_neg (by simp only [Config.slotCount]; omega)]
  simp only [hr, if_pos hv]

/-! ### Fields (R179) -/

theorem leBytes_two (n : Nat) : leBytes 2 n = [byteOf n, byteOf (n / 256)] := rfl

theorem leBytes_three (n : Nat) : leBytes 3 n = [byteOf n, byteOf (n / 256), byteOf (n / 65536)] := by
  simp only [leBytes, Nat.div_div_eq_div_mul]
  rfl

theorem leBytes_four (n : Nat) : leBytes 4 n = [byteOf n, byteOf (n / 256), byteOf (n / 65536), byteOf (n / 16777216)] := by
  simp only [leBytes, Nat.div_div_eq_div_mul]
  rfl

/-! ### QUERY (R154, R184) -/

theorem flag_eq (b : Bool) : flag b = if b = true then 1 else 0 := rfl

/-- The 34 bytes of a record, its codes given. -/
theorem Record.queryBytes_eq {r : Record} {reading state count : Nat} {origin kind : Byte} (hs : r.state.num = state)
    (ho : byteOf r.origin.num = origin) (hk : byteOf r.start.kind.num = kind) (hc : r.queryCountdown reading = count) (k : Nat) :
    r.queryBytes k reading =
      [byteOf k, byteOf r.station, origin,
        byteOf (state + (if r.keep = true then 8 else 0) + (if r.flameOut = true then 16 else 0) + (if r.detached = true then 32 else 0)),
        kind]
      ++ leBytes 3 r.start.count ++ leBytes 2 r.start.minute ++ [byteOf r.start.linked] ++ leBytes 2 r.start.offset
      ++ leBytes 3 count ++ [byteOf r.stage, byteOf r.stages.length] ++ leBytes 3 r.remaining ++ leBytes 3 r.total ++ leBytes 2 r.acc
      ++ [byteOf r.starve, byteOf ((if r.starvedRaised = true then 1 else 0) + (if r.reminderDone = true then 2 else 0))]
      ++ leBytes 2 (r.reminder.getD 0) ++ leBytes 2 r.grace ++ [byteOf r.absent, r.alerts.zeroExtend 8] := by
  subst hs ho hk hc
  simp only [Record.queryBytes, Record.stateByte_eq, mul_flag, flag_eq r.starvedRaised, List.append_assoc, List.singleton_append]

/-- The six bytes of a stage. -/
theorem Stage.queryBytes_eq (g : Stage) : g.queryBytes = byteOf g.level
    :: leBytes 3 (g.duration + (if g.basis = .compensated then 2 ^ 20 else 0) + (if g.second = true then 2 ^ 21 else 0)
      + (if g.setpoint.isSome = true then 2 ^ 22 else 0) + (if g.full = true then 2 ^ 23 else 0))
    ++ leBytes 2 (g.setpoint.getD 0) := by
  simp only [Stage.queryBytes, mul_flag, beq_iff_eq]

/-- The four bytes of an element. -/
theorem Element.queryBytes_eq (x : Element) : x.queryBytes = [byteOf x.request, byteOf x.grant, byteOf x.delivered,
    byteOf ((if x.blocked = true then 1 else 0) + (if x.relay = true then 2 else 0))] := by
  simp only [Element.queryBytes, mul_flag, flag_eq x.blocked]

/-- The apportioning figures of an electric station. -/
theorem Apportioner.queryBytes_eq (a : Apportioner) (st : Nat) : a.queryBytes st =
    (if st = 6 then [0, 1, 2] else if st = 7 then [3, 4] else []).flatMap (fun e =>
      [byteOf (a.element e).request, byteOf (a.element e).grant, byteOf (a.element e).delivered,
        byteOf ((if (a.element e).blocked = true then 1 else 0) + (if (a.element e).relay = true then 2 else 0))])
    ++ leBytes 2 a.periodBudget ++ leBytes 2 a.sliceBudget
    ++ leBytes 3 (if st = 6 then a.oven else a.grill).requested ++ leBytes 3 (if st = 6 then a.oven else a.grill).delivered := by
  simp only [Apportioner.queryBytes, Element.queryBytes_eq]
  rfl

/-- The data of a QUERY, by its three parts. -/
theorem State.queryData_eq {s : State} {k : Nat} {r : Record} {own stages electric : List Byte}
    (ho : r.queryBytes k s.time.clock = own) (hs : r.stages.flatMap Stage.queryBytes = stages)
    (he : (if r.station < 6 then [] else s.app.queryBytes r.station) = electric) : s.queryData k r = own ++ stages ++ electric := by
  subst ho hs he
  exact congrArg (_ ++ ·) (if_congr (by simp [isGas]) rfl rfl)

/-! ### LIST (R34) -/

theorem listBody_eq {bytes : List Byte} (h : field bytes 2 1 ≤ 7) (p : Port) (s : State) : listBody p bytes s
    = .ok (s, byteOf (if portViews s.settings p (field bytes 2 1) = true then s.table.listing (field bytes 2 1) else []).length
        :: (if portViews s.settings p (field bytes 2 1) = true then s.table.listing (field bytes 2 1) else []).map byteOf) :=
  if_neg (by omega)

/-- The slots of a station's records in one state, by their records. -/
theorem mem_slotsWhere_station {t : Table} {st k : Nat} {q : Record → Bool} {P : Record → Prop} (hq : ∀ r, q r = true ↔ P r) :
    k ∈ t.slotsWhere (fun r => r.station == st && q r) ↔ k ∈ allSlots ∧ ∃ r, t.rec? k = some r ∧ r.station = st ∧ P r := by
  simp only [Table.mem_slotsWhere, Bool.and_eq_true, beq_iff_eq, hq]

/-! ### NEXT ALERT (R119, R133) -/

theorem pendingAlerts_nodup (t : Table) (u : SettingsUnit) (v : Nat → Bool) : (pendingAlerts t u v).Nodup := by
  have hall : allAlerts.Nodup := by
    refine List.nodup_flatMap.mpr ⟨fun k _ => ?_, allSlots_nodup.imp fun hne a ha hb => ?_⟩
    · exact (show AlertKind.all.Nodup by decide).map fun a b h => (Prod.mk.inj h).2
    · obtain ⟨_, -, rfl⟩ := List.mem_map.mp ha
      obtain ⟨_, -, hb⟩ := List.mem_map.mp hb
      exact hne (Prod.mk.inj hb).1.symm
  exact pendingAlerts_eq t u v ▸ hall.filter _

section

variable {s : State} {p : Port}

theorem bestBytes_none (h : ∀ a, ¬ s.table.waits s.settings (portViews s.settings p) a) : s.bestBytes p = [0#8, 0#8, 0#8, 0#8] := by
  simp only [State.bestBytes, bestAlert_none_iff.mpr h]

theorem bestBytes_some {a : Nat × AlertKind} {r : Record} (ha : s.table.waits s.settings (portViews s.settings p) a)
    (hbest : ∀ b, s.table.waits s.settings (portViews s.settings p) b → s.settings.prefers a b) (hr : s.table.rec? a.1 = some r) :
    s.bestBytes p = [byteOf a.1, byteOf r.station, byteOf a.2.num, byteOf (s.settings.priority a.2)] := by
  simp only [State.bestBytes, bestAlert_some_iff.mpr ⟨ha, hbest⟩, Table.stationOf?, hr, Option.map_some, Option.getD_some]

theorem contextBytes_none (h : s.ann.current = none) : s.contextBytes p = [0#8, 0#8, 0#8, 0#8] := by
  simp only [State.contextBytes, State.visibleContext, h, Option.filter_none]

/-- A context is shown unless its record's station is withheld from the port. -/
theorem contextBytes_some {c : Context} {r : Record} (h : s.ann.current = some c) (hr : s.table.rec? c.slot = some r) :
    s.contextBytes p = if p = .remote ∧ s.settings.permission r.station = 0 then [0#8, 0#8, 0#8, 0#8]
      else [byteOf c.slot, byteOf c.kind.num, byteOf c.priority, if c.muted = true then 1#8 else 0#8] := by
  have hshown : s.visibleContext p = if portViews s.settings p r.station = true then some c else none := by
    simp [State.visibleContext, h, Option.filter_some, Table.stationOf?, hr]
  have hmuted : byteOf (flag c.muted) = if c.muted = true then 1#8 else 0#8 := by cases c.muted <;> rfl
  rw [State.contextBytes, hshown, ← hmuted]
  by_cases hv : portViews s.settings p r.station = true
  · rw [if_pos hv, if_neg fun ⟨hp, h0⟩ => portViews_iff.mp hv hp h0]
  · rw [if_neg hv, if_pos (Classical.not_imp.mp (mt portViews_iff.mpr hv) |>.imp id not_not.mp)]

end

/-! ### GET ITEM and SETTINGS STATUS (R173, R183) -/

theorem getItemBody_eq {it : Config.Item} {bytes : List Byte} (hmem : it ∈ Config.items) (hid : field bytes 2 2 = it.id) (p : Port)
    (s : State) : getItemBody p bytes s = .ok (s, leBytes 2 it.id ++ leBytes 4 (s.settings.value it.id)) := by
  obtain ⟨i, hat⟩ := item_known hmem
  simp only [getItemBody, hid, hat]
  rfl

/-- The data of a SETTINGS STATUS, its codes given. -/
theorem SettingsUnit.statusBytes_eq {u : SettingsUnit} {loader part store write : Byte} (hl : byteOf u.loader.num = loader)
    (hp : byteOf (flag u.partialEntry) = part) (hs : byteOf u.store.num = store) (hw : byteOf u.store.failedWrite = write) :
    u.statusBytes = [loader] ++ leBytes 2 u.applied ++ leBytes 2 u.skipped ++ leBytes 2 u.rejected ++ [part, store, write] := by
  subst hl hp hs hw
  rfl

/-- Settles O48: the data of each of the five, field by field. -/
theorem readingCommandsOnlyAnswer : Obligations.ReadingCommandsOnlyAnswer := by
  intro s p bytes
  have htable := takeCommand_table s p
  have hsettings := takeCommand_settings s p
  refine ⟨fun r htakes h1 h2 hr hv => ?_, fun n => ⟨leBytes_two n, leBytes_three n, leBytes_four n⟩, ?_, fun htakes => ?_, rfl,
    fun it hmem htakes hid => ?_, fun htakes => ?_⟩
  · have hdata : (s.takeCommand p).queryData (field bytes 2 1) r = s.queryData (field bytes 2 1) r := by cases p <;> rfl
    refine (exec_reads rfl htakes (data := s.queryData (field bytes 2 1) r) ?_).trans
      (congrArg (fun data => Host.Outcome.next (s.answered p bytes .ok data)) (State.queryData_eq (Record.queryBytes_eq rfl ?_ ?_ ?_ _)
        (congrArg (r.stages.flatMap ·) (funext Stage.queryBytes_eq)) (if_congr Iff.rfl rfl (Apportioner.queryBytes_eq _ _))))
    · rw [← hdata]
      exact withRecord_seen h1 h2 (htable ▸ hr) (hsettings ▸ hv) _
    · cases r.origin <;> rfl
    · cases r.start.kind <;> rfl
    · by_cases hs : r.state = .armed
      · simp only [Record.queryCountdown, Record.startCountdown, hs, beq_self_eq_true, if_true]
        cases r.start.kind with
        | after => dsimp only; split <;> rfl
        | now | manual | delay | clockTime => rfl
      · rw [Record.queryCountdown, if_neg (by simpa using hs), if_neg hs]
  · intro st htakes hst
    have hbody := listBody_eq hst p (s.takeCommand p)
    rw [hsettings, htable] at hbody
    refine ⟨fun hv => ?_, fun hv => ⟨_, s.table.slotsWhere (fun r => r.station == st && r.state == .ended && !r.keep), ?_,
      Table.slotsWhere_pairwise _ _, Table.slotsWhere_pairwise _ _,
      fun k => mem_slotsWhere_station fun r => beq_iff_eq, fun k => ?_⟩⟩
    · rw [if_neg (by simp [st, hv])] at hbody
      exact exec_reads rfl htakes hbody
    · rw [if_pos hv] at hbody
      exact exec_reads rfl htakes hbody
    · simp only [Bool.and_assoc]
      exact mem_slotsWhere_station fun r => by simp
  · intro waits
    have hbest : (s.takeCommand p).bestBytes p = s.bestBytes p := by cases p <;> rfl
    have hcontext : (s.takeCommand p).contextBytes p = s.contextBytes p := by cases p <;> rfl
    refine ⟨s.bestBytes p, s.contextBytes p, pendingAlerts s.table s.settings (portViews s.settings p), exec_reads rfl htakes ?_,
      bestBytes_none, fun a r => bestBytes_some, pendingAlerts_nodup _ _ _, fun a => mem_pendingAlerts_iff, contextBytes_none,
      fun c r => contextBytes_some⟩
    show nextAlertBody p bytes _ = _
    rw [nextAlertBody, hbest, hcontext, htable, hsettings, takeCommand_ann]
  · have hbody := getItemBody_eq hmem hid p (s.takeCommand p)
    rw [hsettings] at hbody
    exact exec_reads rfl htakes hbody
  · refine (exec_reads rfl htakes (data := s.settings.statusBytes) ?_).trans
      (congrArg (fun data => Host.Outcome.next (s.answered p bytes .ok data)) (SettingsUnit.statusBytes_eq ?_ ?_ ?_ ?_))
    · rw [← hsettings]
      rfl
    · cases s.settings.loader <;> rfl
    · cases s.settings.partialEntry <;> rfl
    · cases s.settings.store <;> rfl
    · cases s.settings.store <;> rfl

end Sys2Proof.Machine
end


section
/-! PROOFS. The refusals of R139 in the order of the checks (R140 to R149, R171, R172, R182): O39. -/

namespace Sys2Proof.Machine

/-! ### Before the parameters (R141, R142, R148) -/

/-- A command of no known code is answered by the row BAD_COMMAND (R141). -/
theorem execBadCommand_answers {s : State} {p : Port} {bytes : List Byte} {code : Nat} (h : s.chosen = some (p, bytes))
    (hc : codeOf? bytes = some code) (hunknown : knownCode code = false) :
    execBadCommand s = .next (s.answered p bytes (if s.loading = true then .notReady else .badCommand) []) := by
  simp only [execBadCommand, h, hc, hunknown, conclude_error, takeCommand_loading]
  rfl

/-- A command without a code is answered by its own row (R141). -/
theorem execCommandWithoutCode_answers {s : State} {p : Port} {bytes : List Byte} (h : s.chosen = some (p, bytes))
    (hc : codeOf? bytes = none) :
    execCommandWithoutCode s = .next (s.answered p bytes (if s.loading = true then .notReady else .badFrame) []) := by
  simp only [execCommandWithoutCode, h, hc, conclude_error, takeCommand_loading]

theorem codeOf?_short {bytes : List Byte} (h : bytes.length ≤ 1) : codeOf? bytes = none := by
  match bytes with
  | [] | [_] => rfl
  | _ :: _ :: _ => simp at h

section

variable {s : State} {p : Port} {bytes : List Byte} {code : Nat}

/-- The commands that the remote port may not send (R148). -/
theorem workOf_panelOnly (h : code ∈ [0x41, 0x50, 0x52, 0x60, 0x61, 0x62]) : workOf code .remote bytes s = .error .denied := by
  simp only [List.mem_cons, List.not_mem_nil, or_false] at h
  rcases h with rfl | rfl | rfl | rfl | rfl | rfl <;> rfl

/-- The commands that a store shuts out (R142). -/
theorem workOf_busy (h : code ∈ [0x50, 0x52, 0x60]) (hstore : s.settings.storing = true) : workOf code .panel bytes s = .error .busy := by
  have hbusy : ∀ work, panelOnly .panel (s.notStoring work) = .error .busy := fun work => if_pos hstore
  simp only [List.mem_cons, List.not_mem_nil, or_false] at h
  rcases h with rfl | rfl | rfl <;> exact hbusy _

end

/-! ### The slot that a command names (R143, R145) -/

section

variable {s : State} {p : Port} {k : Nat}

theorem withRecord_badParam (h : k = 0 ∨ 48 < k) (work : Record → Verdict) : s.withRecord p k work = .error .badParam := if_pos h

/-- An EMPTY slot, or one withheld from the port. -/
theorem withRecord_noRecord (h1 : 1 ≤ k) (h2 : k ≤ 48)
    (h : s.table.rec? k = none ∨ (p = .remote ∧ ∃ r, s.table.rec? k = some r ∧ s.settings.permission r.station = 0))
    (work : Record → Verdict) : s.withRecord p k work = .error .noRecord := by
  have hrange : ¬(k = 0 ∨ Config.slotCount < k) := by simp only [Config.slotCount]; omega
  rw [State.withRecord, if_neg hrange]
  rcases h with hnone | ⟨rfl, r, hr, hperm⟩
  · rw [hnone]
  · simp only [hr]
    exact if_neg (by simp [portViews, hperm])

end

/-- The port sees the record of the slot that a command names: steps 6 and 7 of R139 find it. -/
structure State.Sees (s : State) (p : Port) (bytes : List Byte) (r : Record) : Prop where
  low : 1 ≤ field bytes 2 1
  high : field bytes 2 1 ≤ 48
  record : s.table.rec? (field bytes 2 1) = some r
  view : portViews s.settings p r.station = true

theorem State.Sees.withRecord {s : State} {p : Port} {bytes : List Byte} {r : Record} (h : s.Sees p bytes r) (work : Record → Verdict) :
    s.withRecord p (field bytes 2 1) work = work r := withRecord_seen h.low h.high h.record h.view work

/-- The first byte of a two-byte field. -/
theorem field_two_mod (bytes : List Byte) (i : Nat) : field bytes i 2 % 256 = field bytes i 1 := by
  unfold field
  cases hb : bytes.drop i with
  | nil => rfl
  | cons b rest =>
    have := b.isLt
    simp only [List.take_succ_cons, List.take_zero, leValue]
    omega

/-! ### The commands that name a slot, up to their own work (R145 to R147, R152, R153) -/

section

variable {s : State} {p : Port} {bytes : List Byte} {r : Record}

theorem adjustBody_eq (h : -86399 ≤ signedField bytes 3 ∧ signedField bytes 3 ≤ 86399) (p : Port) (s : State) :
    ∃ done : Record → Verdict, (∀ r, r.adjustedTime = none → done r = .error .wrongState)
      ∧ adjustBody p bytes s = s.withRecord p (field bytes 2 1) fun r =>
        s.allowed p r.station (r.adjustLengthens (signedField bytes 3)) (done r) := by
  have hrange : ¬(signedField bytes 3 < -(Config.maxSeconds : Int) ∨ (Config.maxSeconds : Int) < signedField bytes 3) := by
    simp only [Config.maxSeconds]; omega
  refine ⟨_, fun r hr => ?_, if_neg hrange⟩
  simp only [hr]

theorem setLevelBody_eq (h : field bytes 3 2 ≠ 0) (p : Port) (s : State) :
    ∃ done : Record → Verdict, setLevelBody p bytes s = s.withRecord p (field bytes 2 1) fun r =>
      if r.station = Config.GR ∧ field bytes 3 2 % 256 = 0 then .error .badParam
      else s.allowed p r.station (r.levelRaises (field bytes 3 2)) (inState r.levelSettable (done r)) :=
  ⟨_, if_neg h⟩

theorem ackBody_eq (h : field bytes 3 1 ≤ 5) (p : Port) (s : State) :
    ∃ done : Record → Verdict, ackBody p bytes s = s.withRecord p (field bytes 2 1) fun r => s.allowed p r.station false (done r) := by
  have hlt : field bytes 3 1 < AlertKind.all.length := Nat.lt_succ_of_le h
  have hkind : AlertKind.ofNum? (field bytes 3 1) = some _ := List.getElem?_eq_getElem hlt
  simp only [ackBody, hkind]
  exact ⟨_, rfl⟩

theorem retireBody_seen (h : s.Sees p bytes r) : ∃ done, retireBody p bytes s
    = s.allowed p r.station false (guarded p (s.retirePromotesGas (field bytes 2 1) r) done) := ⟨_, h.withRecord _⟩

theorem pauseBody_seen (h : s.Sees p bytes r) : ∃ done, pauseBody p bytes s
    = s.allowed p r.station false (inState (r.state == .running) done) := ⟨_, h.withRecord _⟩

theorem resumeBody_seen (h : s.Sees p bytes r) : ∃ done, resumeBody p bytes s
    = s.allowed p r.station true (inState r.resumable done) := ⟨_, h.withRecord _⟩

theorem skipBody_seen (h : s.Sees p bytes r) : ∃ done, skipBody p bytes s
    = s.allowed p r.station true (inState (r.state == .running) (guarded p (s.skipStartsGas (field bytes 2 1) r) done)) :=
  ⟨_, h.withRecord _⟩

theorem startBody_seen (h : s.Sees p bytes r) : ∃ done, startBody p bytes s
    = s.allowed p r.station true (inState (r.state == .armed) done) := ⟨_, h.withRecord _⟩

theorem adjustBody_seen (h : s.Sees p bytes r) (hd : -86399 ≤ signedField bytes 3 ∧ signedField bytes 3 ≤ 86399) :
    ∃ done, (r.adjustedTime = none → done = .error .wrongState)
      ∧ adjustBody p bytes s = s.allowed p r.station (r.adjustLengthens (signedField bytes 3)) done := by
  obtain ⟨done, hended, heq⟩ := adjustBody_eq hd p s
  exact ⟨done r, hended r, heq.trans (h.withRecord _)⟩

theorem setLevelBody_seen (h : s.Sees p bytes r) (hv : field bytes 3 2 ≠ 0) (hgrill : r.station = 7 → field bytes 3 1 ≠ 0) :
    ∃ done, setLevelBody p bytes s
      = s.allowed p r.station (r.levelRaises (field bytes 3 2)) (inState r.levelSettable done) := by
  obtain ⟨done, heq⟩ := setLevelBody_eq hv p s
  refine ⟨done r, heq.trans ((h.withRecord _).trans (if_neg fun ⟨hst, h0⟩ => hgrill hst ?_))⟩
  rwa [field_two_mod] at h0

theorem ackBody_seen (h : s.Sees p bytes r) (hk : field bytes 3 1 ≤ 5) :
    ∃ done, ackBody p bytes s = s.allowed p r.station false done := by
  obtain ⟨done, heq⟩ := ackBody_eq hk p s
  exact ⟨done r, heq.trans (h.withRecord _)⟩

end

/-! ### Parameters out of range (R143, R149, R171, R172) -/

section

variable {s : State} {p : Port} {bytes : List Byte} {code : Nat}

/-- A slot number out of range. -/
theorem workOf_badSlot (h : code ∈ [0x11, 0x12, 0x13, 0x14, 0x15, 0x16, 0x17, 0x20, 0x31])
    (hk : field bytes 2 1 = 0 ∨ 48 < field bytes 2 1) : workOf code p bytes s = .error .badParam := by
  have hslot := withRecord_badParam (s := s) (p := p) hk
  have hadjust : adjustBody p bytes s = .error .badParam := (if_congr Iff.rfl rfl (hslot _)).trans (ite_self _)
  have hlevel : setLevelBody p bytes s = .error .badParam := (if_congr Iff.rfl rfl (hslot _)).trans (ite_self _)
  have hack : ackBody p bytes s = .error .badParam := by
    unfold ackBody
    dsimp only
    split
    · rfl
    · exact hslot _
  simp only [List.mem_cons, List.not_mem_nil, or_false] at h
  rcases h with rfl | rfl | rfl | rfl | rfl | rfl | rfl | rfl | rfl
  exacts [hslot _, hslot _, hslot _, hadjust, hlevel, hslot _, hslot _, hslot _, hack]

theorem itemAt_none {id : Nat} (h : ∀ it ∈ Config.items, id ≠ it.id) : itemAt id = none := by
  cases hat : itemAt id with
  | none => rfl
  | some x =>
    obtain ⟨hit, hid⟩ := itemAt_some hat
    exact absurd hid.symm (h _ (List.mem_of_getElem? hit))

/-- A value that SET ITEM refuses: outside the item's range, off its step, or a Bs above the working B. -/
theorem acceptsItem_refused {u : SettingsUnit} {it : Config.Item} {v : Nat} (h : v < it.low ∨ it.high < v ∨ v % it.step ≠ 0
    ∨ (it.id = Config.shedId ∧ u.value Config.budgetId < v)) : u.acceptsItem it v = false := by
  simp only [SettingsUnit.acceptsItem, itemAccepts, Bool.and_eq_false_iff, Bool.or_eq_false_iff, decide_eq_false_iff_not, beq_eq_false_iff_ne,
    bne_eq_false_iff_eq, Nat.not_le]
  tauto

theorem setItemBody_badParam (hstore : s.settings.storing = false) (h : ∀ it ∈ Config.items, field bytes 2 2 = it.id →
      field bytes 4 4 < it.low ∨ it.high < field bytes 4 4 ∨ field bytes 4 4 % it.step ≠ 0
        ∨ (it.id = 0x31 ∧ s.settings.value 0x30 < field bytes 4 4)) : setItemBody .panel bytes s = .error .badParam := by
  simp only [setItemBody, panelOnly, State.notStoring, hstore, Bool.false_eq_true, if_false]
  cases hat : itemAt (field bytes 2 2) with
  | none => rfl
  | some x =>
    obtain ⟨i, it⟩ := x
    obtain ⟨hit, hid⟩ := itemAt_some hat
    exact if_neg (by rw [acceptsItem_refused (h it (List.mem_of_getElem? hit) hid.symm)]; exact Bool.false_ne_true)

theorem grantBody_badParam (hstore : s.settings.storing = false) (h : 7 < field bytes 2 1 ∨ 2 < field bytes 3 1) :
    grantBody .panel bytes s = .error .badParam := by
  simp only [grantBody, panelOnly, State.notStoring, hstore, Bool.false_eq_true, if_false]
  exact if_pos h

/-- A kind of alert that there is not. -/
theorem ackBody_badParam (h : 5 < field bytes 3 1) : ackBody p bytes s = .error .badParam := by
  have hkind : AlertKind.ofNum? (field bytes 3 1) = none := List.getElem?_eq_none h
  simp only [ackBody, hkind]

theorem getItemBody_badParam (h : ∀ it ∈ Config.items, field bytes 2 2 ≠ it.id) : getItemBody p bytes s = .error .badParam := by
  simp only [getItemBody, itemAt_none h]

/-- Every other parameter out of range. -/
theorem workOf_badParam
    (h : (code = 0x14 ∧ (signedField bytes 3 < -86399 ∨ 86399 < signedField bytes 3))
      ∨ (code = 0x15 ∧ field bytes 3 2 = 0) ∨ (code = 0x31 ∧ 5 < field bytes 3 1) ∨ (code = 0x21 ∧ 7 < field bytes 2 1)
      ∨ (code = 0x40 ∧ (23 < field bytes 2 1 ∨ 59 < field bytes 3 1 ∨ 59 < field bytes 4 1))
      ∨ (code = 0x51 ∧ ∀ it ∈ Config.items, field bytes 2 2 ≠ it.id)
      ∨ (p = .panel ∧ code = 0x62 ∧ 7 < field bytes 2 1)
      ∨ (p = .panel ∧ code = 0x60 ∧ s.settings.storing = false ∧ (7 < field bytes 2 1 ∨ 2 < field bytes 3 1))
      ∨ (p = .panel ∧ code = 0x50 ∧ s.settings.storing = false ∧ ∀ it ∈ Config.items, field bytes 2 2 = it.id →
          field bytes 4 4 < it.low ∨ it.high < field bytes 4 4 ∨ field bytes 4 4 % it.step ≠ 0
            ∨ (it.id = 0x31 ∧ s.settings.value 0x30 < field bytes 4 4))
      ∨ (p = .panel ∧ code = 0x41 ∧ ¬(1 ≤ field bytes 2 1 ∧ field bytes 2 1 ≤ field bytes 3 1 ∧ field bytes 3 1 ≤ 48))) :
    workOf code p bytes s = .error .badParam := by
  rcases h with ⟨rfl, h⟩ | ⟨rfl, h⟩ | ⟨rfl, h⟩ | ⟨rfl, h⟩ | ⟨rfl, h⟩ | ⟨rfl, h⟩ | ⟨rfl, rfl, h⟩ | ⟨rfl, rfl, hstore, h⟩
    | ⟨rfl, rfl, hstore, h⟩ | ⟨rfl, rfl, h⟩
  · exact if_pos h
  · exact if_pos h
  · exact ackBody_badParam h
  · exact if_pos h
  · exact if_pos h
  · exact getItemBody_badParam (p := p) h
  · exact if_pos h
  · exact grantBody_badParam hstore h
  · exact setItemBody_badParam hstore h
  · exact if_neg h

/-- The slot's record is missing for a command whose own parameters are in range. -/
theorem workOf_noRecord (hcode : code ∈ [0x11, 0x12, 0x13, 0x14, 0x15, 0x16, 0x17, 0x20, 0x31]) (h1 : 1 ≤ field bytes 2 1)
    (h2 : field bytes 2 1 ≤ 48) (hadjust : code = 0x14 → -86399 ≤ signedField bytes 3 ∧ signedField bytes 3 ≤ 86399)
    (hlevel : code = 0x15 → field bytes 3 2 ≠ 0) (hkind : code = 0x31 → field bytes 3 1 ≤ 5)
    (h : s.table.rec? (field bytes 2 1) = none
      ∨ (p = .remote ∧ ∃ r, s.table.rec? (field bytes 2 1) = some r ∧ s.settings.permission r.station = 0)) :
    workOf code p bytes s = .error .noRecord := by
  have hslot := withRecord_noRecord h1 h2 h
  simp only [List.mem_cons, List.not_mem_nil, or_false] at hcode
  rcases hcode with rfl | rfl | rfl | hcode
  · exact hslot _
  · exact hslot _
  · exact hslot _
  rcases hcode with rfl | rfl | hcode
  · obtain ⟨_, -, heq⟩ := adjustBody_eq (hadjust rfl) p s
    exact heq.trans (hslot _)
  · obtain ⟨_, heq⟩ := setLevelBody_eq (hlevel rfl) p s
    exact heq.trans (hslot _)
  rcases hcode with rfl | rfl | rfl | rfl
  · exact hslot _
  · exact hslot _
  · exact hslot _
  · obtain ⟨_, heq⟩ := ackBody_eq (hkind rfl) p s
    exact heq.trans (hslot _)

end

/-! ### Access and the gas limits (R145, R146) -/

theorem allowed_withheld {s : State} {st : Nat} (h : s.settings.permission st ≠ 2) (limit : Bool) (work : Verdict) :
    s.allowed .remote st limit work = .error .denied := if_pos (by simp [State.fullAccess, h])

section

variable {s : State} {p : Port} {bytes : List Byte} {r : Record} {code : Nat}

/-- Under VIEW the remote port may read the record alone. -/
theorem workOf_view (h : s.Sees .remote bytes r) (hview : s.settings.permission r.station = 1)
    (hcode : code ∈ [0x11, 0x12, 0x13, 0x14, 0x15, 0x16, 0x17, 0x20, 0x31]) (hquery : code ≠ 0x20)
    (hadjust : code = 0x14 → -86399 ≤ signedField bytes 3 ∧ signedField bytes 3 ≤ 86399) (hlevel : code = 0x15 → field bytes 3 2 ≠ 0)
    (hgrill : code = 0x15 → r.station = 7 → field bytes 3 1 ≠ 0) (hkind : code = 0x31 → field bytes 3 1 ≤ 5) :
    workOf code .remote bytes s = .error .denied := by
  have hno := allowed_withheld (s := s) (st := r.station) (by omega)
  simp only [List.mem_cons, List.not_mem_nil, or_false] at hcode
  rcases hcode with rfl | rfl | rfl | rfl | rfl | rfl | rfl | rfl | rfl
  · obtain ⟨_, heq⟩ := retireBody_seen h
    exact heq.trans (hno _ _)
  · obtain ⟨_, heq⟩ := pauseBody_seen h
    exact heq.trans (hno _ _)
  · obtain ⟨_, heq⟩ := resumeBody_seen h
    exact heq.trans (hno _ _)
  · obtain ⟨_, -, heq⟩ := adjustBody_seen h (hadjust rfl)
    exact heq.trans (hno _ _)
  · obtain ⟨_, heq⟩ := setLevelBody_seen h (hlevel rfl) (hgrill rfl)
    exact heq.trans (hno _ _)
  · obtain ⟨_, heq⟩ := skipBody_seen h
    exact heq.trans (hno _ _)
  · obtain ⟨_, heq⟩ := startBody_seen h
    exact heq.trans (hno _ _)
  · exact absurd rfl hquery
  · obtain ⟨_, heq⟩ := ackBody_seen h (hkind rfl)
    exact heq.trans (hno _ _)

/-- An ADJUST by more than 0, or one that makes the record's time longer (R146). -/
theorem Record.adjustLengthens_of {delta : Int} (h : 0 < delta
    ∨ ((r.state = .running ∨ r.state = .paused ∨ r.state = .held) ∧ r.remaining < clampTime r.remaining delta)
    ∨ ((r.state = .armed ∨ r.state = .queued) ∧ ∃ g rest, r.stages = g :: rest ∧ g.duration < clampTime g.duration delta)) :
    r.adjustLengthens delta = true := by
  rw [Record.adjustLengthens, Bool.or_eq_true, decide_eq_true_eq]
  refine h.imp_right fun h => ?_
  rcases h with ⟨hs, hlt⟩ | ⟨hs, g, rest, hg, hlt⟩
  · have htime : r.adjustedTime = some r.remaining := by rcases hs with hs | hs | hs <;> simp only [Record.adjustedTime, hs]
    simpa [htime] using hlt
  · have hfirst : r.stageAt? 1 = some g := by simp [Record.stageAt?, hg]
    have htime : r.adjustedTime = some g.duration := by
      rcases hs with hs | hs <;> simp only [Record.adjustedTime, hs, hfirst, Option.elim_some]
    simpa [htime] using hlt

/-- A SET LEVEL above the level of the stage shown, on a gas station (R146). -/
theorem Record.levelRaises_of {v : Nat} {g : Stage} (hst : r.station < 6) (hset : r.state ≠ .ended ∨ r.keep = true)
    (hg : r.shownStage? = some g) (hlt : g.level < min 9 v) : r.levelRaises v = true := by
  have hclamp : clampLevel r.station v = min 9 v := if_pos (by simpa [isGas] using hst)
  have hsettable : r.levelSettable = true := by simpa [Record.levelSettable] using hset
  simp only [Record.levelRaises, hsettable, hg, Option.elim_some, hclamp, Bool.true_and, decide_eq_true_eq]
  exact hlt

/-- The gas limits of R146. -/
theorem workOf_gasLimit (h : s.Sees .remote bytes r) (hst : r.station < 6)
    (hadjust : code = 0x14 → -86399 ≤ signedField bytes 3 ∧ signedField bytes 3 ≤ 86399) (hlevel : code = 0x15 → field bytes 3 2 ≠ 0)
    (hlimit : code = 0x13 ∨ code = 0x16 ∨ code = 0x17 ∨ (code = 0x14 ∧ r.adjustLengthens (signedField bytes 3) = true)
      ∨ (code = 0x15 ∧ r.levelRaises (field bytes 3 2) = true)) :
    workOf code .remote bytes s = .error .denied := by
  have hno := fun work => allowed_denied (s := s) (.inr hst) work
  rcases hlimit with rfl | rfl | rfl | ⟨rfl, hlong⟩ | ⟨rfl, hraise⟩
  · obtain ⟨_, heq⟩ := resumeBody_seen h
    exact heq.trans (hno _)
  · obtain ⟨_, heq⟩ := skipBody_seen h
    exact heq.trans (hno _)
  · obtain ⟨_, heq⟩ := startBody_seen h
    exact heq.trans (hno _)
  · obtain ⟨_, -, heq⟩ := adjustBody_seen h (hadjust rfl)
    rw [hlong] at heq
    exact heq.trans (hno _)
  · obtain ⟨_, heq⟩ := setLevelBody_seen h (hlevel rfl) (fun h7 => by omega)
    rw [hraise] at heq
    exact heq.trans (hno _)

end

/-! ### The record's state, and the gas start guard (R139, R147) -/

theorem inState_wrong {ok : Bool} (h : ok = false) (work : Verdict) : inState ok work = .error .wrongState := by
  rw [inState, h]
  rfl

theorem guarded_denied {starts : Bool} (h : starts = true) (work : Verdict) : guarded .remote starts work = .error .denied := by
  rw [guarded, h]
  rfl

section

variable {s : State} {p : Port} {bytes : List Byte} {r : Record} {code : Nat}

/-- A command that reaches its record sees it. -/
theorem State.Reaches.sees (h : s.Reaches p bytes r) : (s.takeCommand p).Sees p bytes r where
  low := h.slot.1
  high := h.slot.2
  record := by simpa using h.record
  view := by
    have haccess := h.access
    refine portViews_iff.mpr ?_
    rintro rfl
    simp only [State.fullAccess, beq_iff_eq] at haccess
    rw [takeCommand_settings, haccess]
    decide

/-- RESUME, SKIP and START in a state in which they do not act, gas stations closed to the remote port. -/
theorem workOf_wrongState_electric (h : s.Reaches p bytes r) (hgas : p = .remote → isGas r.station = false)
    (hstate : (code = 0x16 ∧ r.state ≠ .running) ∨ (code = 0x13 ∧ r.resumable = false) ∨ (code = 0x17 ∧ r.state ≠ .armed)) :
    workOf code p bytes (s.takeCommand p) = .error .wrongState := by
  have hpass := allowed_reaches h true fun hp hg => by simp [hgas hp] at hg
  rcases hstate with ⟨rfl, hs⟩ | ⟨rfl, hs⟩ | ⟨rfl, hs⟩
  · obtain ⟨_, heq⟩ := skipBody_seen h.sees
    exact heq.trans ((hpass _).trans (inState_wrong (beq_eq_false_iff_ne.mpr hs) _))
  · obtain ⟨_, heq⟩ := resumeBody_seen h.sees
    exact heq.trans ((hpass _).trans (inState_wrong hs _))
  · obtain ⟨_, heq⟩ := startBody_seen h.sees
    exact heq.trans ((hpass _).trans (inState_wrong (beq_eq_false_iff_ne.mpr hs) _))

/-- PAUSE, SET LEVEL and ADJUST in a state in which they do not act. -/
theorem workOf_wrongState (h : s.Reaches p bytes r)
    (hadjust : code = 0x14 → -86399 ≤ signedField bytes 3 ∧ signedField bytes 3 ≤ 86399) (hlevel : code = 0x15 → field bytes 3 2 ≠ 0)
    (hgrill : code = 0x15 → r.station = 7 → field bytes 3 1 ≠ 0)
    (hstate : (code = 0x12 ∧ r.state ≠ .running) ∨ (code = 0x15 ∧ r.state = .ended ∧ r.keep = false)
      ∨ (code = 0x14 ∧ r.state = .ended ∧ (p = .remote → r.station < 6 → signedField bytes 3 ≤ 0))) :
    workOf code p bytes (s.takeCommand p) = .error .wrongState := by
  rcases hstate with ⟨rfl, hs⟩ | ⟨rfl, hended, hkeep⟩ | ⟨rfl, hended, hdelta⟩
  · obtain ⟨_, heq⟩ := pauseBody_seen h.sees
    exact heq.trans ((allowed_reaches h false (fun _ _ => rfl) _).trans (inState_wrong (beq_eq_false_iff_ne.mpr hs) _))
  · obtain ⟨_, heq⟩ := setLevelBody_seen h.sees (hlevel rfl) (hgrill rfl)
    have hset : r.levelSettable = false := by simp [Record.levelSettable, hended, hkeep]
    have hraise : r.levelRaises (field bytes 3 2) = false := by simp [Record.levelRaises, hset]
    exact heq.trans ((allowed_reaches h _ (fun _ _ => hraise) _).trans (inState_wrong hset _))
  · obtain ⟨_, hwrong, heq⟩ := adjustBody_seen h.sees (hadjust rfl)
    have htime : r.adjustedTime = none := by simp only [Record.adjustedTime, hended]
    have hlong : p = .remote → isGas r.station = true → r.adjustLengthens (signedField bytes 3) = false := fun hp hg => by
      have := hdelta hp (by simpa [isGas] using hg)
      simp only [Record.adjustLengthens, htime, Option.elim_none, Bool.or_false, decide_eq_false_iff_not]
      omega
    exact heq.trans ((allowed_reaches h _ hlong _).trans (hwrong htime))

/-- A remote RETIRE or SKIP that would start a gas record (R147). -/
theorem workOf_startsGas (h : s.Reaches .remote bytes r)
    (hstarts : (code = 0x11 ∧ s.retirePromotesGas (field bytes 2 1) r = true)
      ∨ (code = 0x16 ∧ isGas r.station = false ∧ r.state = .running ∧ s.skipStartsGas (field bytes 2 1) r = true)) :
    workOf code .remote bytes (s.takeCommand .remote) = .error .denied := by
  rcases hstarts with ⟨rfl, hpromotes⟩ | ⟨rfl, hgas, hrun, hdue⟩
  · obtain ⟨_, heq⟩ := retireBody_seen h.sees
    exact heq.trans ((allowed_reaches h false (fun _ _ => rfl) _).trans (guarded_denied hpromotes _))
  · obtain ⟨_, heq⟩ := skipBody_seen h.sees
    refine heq.trans ((allowed_reaches h true (fun _ hg => by simp [hgas] at hg) _).trans ?_)
    exact (if_pos (beq_iff_eq.mpr hrun)).trans (guarded_denied hdue _)

end

theorem retirePromotesGas_of {s : State} {k : Nat} {r : Record} (hst : r.station < 6) (hhead : s.table.head r.station = k)
    (hqueue : s.table.queue r.station ≠ []) : s.retirePromotesGas k r = true := by
  simp [State.retirePromotesGas, isGas, hst, hhead, hqueue]

theorem skipStartsGas_of {s : State} {k d : Nat} {r q : Record} (hlast : r.stages.length ≤ r.stage) (hd : d ∈ allSlots)
    (hq : s.table.rec? d = some q) (hw : q.waitsOn k = true) (hst : q.station < 6) (h0 : q.start.offset = 0) :
    s.skipStartsGas k r = true := by
  have hmem : d ∈ s.table.slotsWhere (fun d => d.waitsOn k && isGas d.station && d.start.offset == 0) :=
    Table.mem_slotsWhere.mpr ⟨hd, q, hq, by simp [hw, isGas, hst, h0]⟩
  have hnext : r.hasNextStage = false := by simpa [Record.hasNextStage] using hlast
  simp only [State.skipStartsGas, hnext, List.isEmpty_eq_false_iff_exists_mem.mpr ⟨d, hmem⟩]
  rfl

/-- A remote SET CLOCK that would start a gas record (R147). -/
theorem setClockBody_denied {s : State} {bytes : List Byte} (hh : field bytes 2 1 ≤ 23) (hm : field bytes 3 1 ≤ 59)
    (hs : field bytes 4 1 ≤ 59) {k : Nat} {r : Record}
    (hdue : k ∈ s.jumpDue (3600 * field bytes 2 1 + 60 * field bytes 3 1 + field bytes 4 1)) (hr : s.table.rec? k = some r)
    (hgas : r.station < 6) : setClockBody .remote bytes s = .error .denied := by
  have hstarts : s.jumpStartsGas (3600 * field bytes 2 1 + 60 * field bytes 3 1 + field bytes 4 1) = true :=
    List.any_eq_true.mpr ⟨k, hdue, by simp [hr, isGas, hgas]⟩
  have hrange : ¬(23 < field bytes 2 1 ∨ 59 < field bytes 3 1 ∨ 59 < field bytes 4 1) := by omega
  exact (if_neg hrange).trans (guarded_denied hstarts _)

/-- Settles O39: each refusal stands before the next, so a command that passes the earlier checks is answered by the first it fails. -/
theorem theFirstFailedCheckAnswers : Obligations.TheFirstFailedCheckAnswers := by
  intro c s p bytes hchosen
  have htable := takeCommand_table s p
  have hsettings := takeCommand_settings s p
  refine ⟨fun code hcode hcoded => ⟨fun hl => ?_, fun hl hn => ?_⟩, fun code hcoded hcreate hnone => ?_, fun hshort => ?_,
    fun code hcode htakes => ⟨?_, ?_, fun hin hk => ?_, fun h => ?_⟩,
    fun code hcode htakes h1 h2 hin hadjust hlevel hkind => ?_, ?_⟩
  · rw [exec_eq_execute hcode, execute_loading _ hchosen hcoded hl]
  · rw [exec_eq_execute hcode, execute_length _ hchosen hcoded hl hn]
  · exact execBadCommand_answers hchosen hcoded (by simp [knownCode, hcreate, hnone])
  · exact execCommandWithoutCode_answers hchosen (codeOf?_short hshort)
  · rintro rfl hin
    exact exec_refuses hcode htakes (workOf_panelOnly hin)
  · rintro rfl hin hstore
    exact exec_refuses hcode htakes (workOf_busy hin (hsettings ▸ hstore))
  · exact exec_refuses hcode htakes (workOf_badSlot hin hk)
  · exact exec_refuses hcode htakes (workOf_badParam (by rwa [hsettings]))
  · intro k clamp
    refine ⟨fun h => exec_refuses hcode htakes (workOf_noRecord hin h1 h2 hadjust hlevel hkind (by rwa [htable, hsettings])),
      fun r hr hgrill => ?_⟩
    intro shown
    have hshown : r.shownIndex = shown := Record.shownIndex_eq r
    have hreach : (p = .remote → s.settings.permission r.station = 2) → s.Reaches p bytes r := fun hfull => by
      refine ⟨⟨h1, h2⟩, hr, ?_⟩
      cases p with
      | panel => rfl
      | remote => exact beq_iff_eq.mpr (hfull rfl)
    refine ⟨?_, ?_, fun hport hstate => ?_, fun hport hstate => ?_, ?_⟩
    · rintro rfl hview hquery
      refine exec_refuses hcode htakes (workOf_view ⟨h1, h2, htable ▸ hr, ?_⟩ (hsettings ▸ hview) hin hquery hadjust hlevel hgrill hkind)
      exact portViews_iff.mpr fun _ => by rw [hsettings, hview]; decide
    · rintro rfl hfull hst hlimit
      refine exec_refuses hcode htakes (workOf_gasLimit (hreach fun _ => hfull).sees hst hadjust hlevel ?_)
      refine hlimit.imp_right (Or.imp_right (Or.imp_right (Or.imp (And.imp_right Record.adjustLengthens_of) ?_)))
      rintro ⟨rfl, hset, g, hg, hlt⟩
      exact ⟨rfl, Record.levelRaises_of hst hset (by rwa [Record.shownStage?, hshown]) hlt⟩
    · have hgas : p = .remote → isGas r.station = false := fun hp => by
        have h6 := (hport.resolve_left (by simp [hp])).2
        simpa [isGas] using h6
      refine exec_refuses hcode htakes (workOf_wrongState_electric (hreach fun hp => (hport.resolve_left (by simp [hp])).1) hgas ?_)
      refine hstate.imp_right (Or.imp_left (And.imp_right fun h => Bool.eq_false_iff.mpr fun hres => ?_))
      exact (Record.resumable_iff.mp hres).elim h.1 fun hres => hres.elim h.2.1 h.2.2
    · exact exec_refuses hcode htakes (workOf_wrongState (hreach fun hp => hport.resolve_left (by simp [hp])) hadjust hlevel hgrill hstate)
    · rintro rfl hfull hstarts
      refine exec_refuses hcode htakes (workOf_startsGas (hreach fun _ => hfull) (hstarts.imp ?_ ?_))
      · rintro ⟨hc, hst, hhead, hqueue⟩
        exact ⟨hc, retirePromotesGas_of hst hhead hqueue⟩
      · rintro ⟨hc, hst, hrun, hlast, d, hd, q, hq, hw, hgas, h0⟩
        exact ⟨hc, by simpa [isGas] using hst, hrun, skipStartsGas_of hlast hd hq hw hgas h0⟩
  · intro new span hp htakes hh hm hsec hvalid hlow hhigh hdue
    subst hp
    obtain ⟨k, hk, r, hr, harmed, hkind, hgas, hcount⟩ := hdue
    refine exec_refuses rfl htakes (setClockBody_denied hh hm hsec (mem_jumpDue.mpr ?_) (htable ▸ hr) hgas)
    rw [htable, takeCommand_time]
    exact ⟨hvalid, hlow, hhigh, hk, r, hr, by simp [Record.waitsClock, harmed, hkind], hcount⟩

end Sys2Proof.Machine
end


section
/-! PROOFS. No command from the remote port raises a burner (R11, R145 to R148): O16. -/

namespace Sys2Proof.Machine

/-! ### Levels that do not rise -/

/-- No gas station has a higher level in the second state. -/
def State.NoneRaised (s t : State) : Prop := ∀ st, isGas st = true → (t.burner st).level ≤ (s.burner st).level

namespace State.NoneRaised

theorem of_burners {s t : State} (h : t.burners = s.burners) : s.NoneRaised t := fun st _ => by rw [State.burner_congr h]

theorem of_burner {s t : State} (h : ∀ st, isGas st = true → t.burner st = s.burner st) : s.NoneRaised t := fun st hg => by rw [h st hg]

theorem refl (s : State) : s.NoneRaised s := of_burners rfl

theorem trans {s t u : State} (h : s.NoneRaised t) (g : t.NoneRaised u) : s.NoneRaised u := fun st hg => (g st hg).trans (h st hg)

theorem then_burners {s t u : State} (h : s.NoneRaised t) (g : u.burners = t.burners) : s.NoneRaised u := h.trans (of_burners g)

end State.NoneRaised

/-- A gas station is not an electric one. -/
theorem ne_of_isGas {st f : Nat} (hg : isGas st = true) (he : isGas f = false) : st ≠ f := fun h => by
  rw [h, he] at hg
  exact Bool.false_ne_true hg

/-! ### What an accepted command of the remote port has passed (R145 to R148) -/

namespace LeadsTo

variable {P : State → Prop} {s : State} {v : Verdict}

theorem withRecord_at {p : Port} {k : Nat} {work : Record → Verdict} (h : ∀ r, s.table.rec? k = some r → LeadsTo P (work r)) :
    LeadsTo P (s.withRecord p k work) := fun t data he => by
  obtain ⟨r, hr, he⟩ := withRecord_ok he
  exact h r hr t data he

/-- Of a gas station the gas limit does not hold. -/
theorem allowed_remote {st : Nat} {limit : Bool} (h : (isGas st = true → limit = false) → LeadsTo P v) :
    LeadsTo P (s.allowed .remote st limit v) := by
  unfold State.allowed
  split
  · exact .error _
  · split
    · exact .error _
    · next hlimit =>
      refine h fun hg => ?_
      simpa [hg] using hlimit

theorem guarded_remote {starts : Bool} (h : starts = false → LeadsTo P v) : LeadsTo P (Machine.guarded .remote starts v) := by
  unfold Machine.guarded
  split
  · exact .error _
  · next hstarts => exact h (by simpa using hstarts)

theorem inState_when {ok : Bool} (h : ok = true → LeadsTo P v) : LeadsTo P (Machine.inState ok v) := by
  unfold Machine.inState
  split
  · next hok => exact h hok
  · exact .error _

/-- A limit that always holds leaves the electric stations alone. -/
theorem allowed_electric {st : Nat} (h : isGas st = false → LeadsTo P v) : LeadsTo P (s.allowed .remote st true v) :=
  .allowed_remote fun hlimit => h (Bool.eq_false_iff.mpr fun hg => Bool.noConfusion (hlimit hg))

end LeadsTo

/-! ### One record changed, and its head followed (R11) -/

/-- A record changed to one that gives no higher level. -/
theorem modify_follow_noneRaised {s : State} (hl : s.LevelsFollow) {k : Nat} {r : Record} (hr : s.table.rec? k = some r)
    {f : Record → Record} (hf : isGas r.station = true → (f r).givenLevel ≤ r.givenLevel) :
    s.NoneRaised ((s.modify k f).follow r.station) := by
  intro st hg
  by_cases hst : st = r.station
  · subst hst
    have hlen : r.station < s.burners.length := by
      rw [hl.six]; simpa [isGas] using hg
    by_cases hk : s.table.head r.station = k
    · rw [level_modify_follow_head hr hk hg hlen, hl.level_of_head hr hk hg]
      exact hf hg
    · rw [follow_level hg (by simpa using hlen), State.modify_table, Table.levelOf_modify_other hk,
        hl.level _ (by simpa [isGas] using hg)]
  · rw [follow_burner_other _ hst]
    exact Nat.le_refl _

/-- A sound record that a SET LEVEL acts on has the stage it stands for. -/
theorem Record.Sound.shown {r : Record} (h : r.Sound) : r.isHead = true ∨ r.state = .armed ∨ r.state = .queued →
    ∃ g, r.shownStage? = some g := by
  intro hs
  have hsome := h.some_stage
  refine Record.stageAt?_isSome ?_ ?_ <;> cases hstate : r.state <;> simp only [Record.shownIndex, hstate]
  case refine_1.running | refine_1.paused | refine_1.held => exact h.head_index (by simp [Record.isHead, hstate])
  case refine_2.running | refine_2.paused | refine_2.held => exact h.index
  all_goals omega

/-- A SET LEVEL within its gas limit gives no higher level (R146). -/
theorem Record.givenLevel_setLevel_le {r : Record} (hs : r.Sound) {v : Nat} (hset : r.levelSettable = true)
    (hg : isGas r.station = true) (hlimit : r.levelRaises v = false) : (r.setLevel v).givenLevel ≤ r.givenLevel := by
  obtain ⟨g, hshown⟩ : ∃ g, r.shownStage? = some g := hs.shown (by
    cases hstate : r.state <;> simp_all [Record.levelSettable, Record.isHead])
  rw [Record.givenLevel_setLevel v hshown]
  split
  · next hlit =>
    rw [Record.givenLevel_lit hlit hshown]
    simp only [Record.levelRaises, hset, hshown, Option.elim_some, Bool.true_and, decide_eq_false_iff_not] at hlimit
    simp only [Stage.withLevel, hg, if_true]
    omega
  · exact Nat.zero_le _

/-! ### Placement on electric stations (R23) -/

/-- A placed record of an electric station lights no burner. -/
theorem place_electric {s : State} {k : Nat} (h : ∀ r, s.table.rec? k = some r → isGas r.station = false) :
    (s.place k).burners = s.burners := by
  unfold State.place
  split
  · rfl
  · next r hr =>
    split
    · rw [State.makeHead, follow_electric (h r hr)]
      rfl
    · rfl

/-- Nor do several, placed together. -/
theorem placeAll_electric {s : State} {ks : List Nat} (hn : s.table.Nearly noSlot noSlot) (hl : s.LevelsFollow)
    (hasc : ks.Pairwise (· < ·)) (harmed : s.table.AllArmed ks)
    (h : ∀ k ∈ ks, ∀ r, s.table.rec? k = some r → isGas r.station = false) : s.NoneRaised (s.placeAll ks) := by
  refine .of_burner fun st hg => ?_
  have hnone : s.table.onStation ks st = [] := List.filter_eq_nil_iff.mpr fun k hk hany => by
    obtain ⟨r, hr, hst⟩ := (Option.any_eq_true _ _).mp hany
    exact ne_of_isGas hg (h k hk r hr) (of_decide_eq_true hst).symm
  have hst : st < 6 := by simpa [isGas] using hg
  exact ((placeAll_together hn hl hasc harmed).joined st (by omega) (.inr hnone)).2.2

/-! ### CREATE and SET CLOCK (R20, R71, R146, R147) -/

theorem createChecked_noneRaised {s : State} (hc : s.table.Consistent) {c : CreateParams} (hst : isGas c.station = false) (p : Port)
    (sc : StartCondition) : LeadsTo s.NoneRaised (s.createChecked p c sc) := by
  refine .ite (.error _) (.ite (.error _) (.ite (.error _) ?_))
  split
  · exact .error _
  · next k hfree =>
    refine .ite (.error _) (.ok (.of_burners ?_))
    split
    · refine place_electric (s := s.written p c sc k) fun r hr => ?_
      rw [rec?_written hc.slots (Table.free?_some hfree).1] at hr
      rw [← Option.some.inj hr]
      exact hst
    · rfl

theorem create_noneRaised {s : State} (hc : s.table.Consistent) (bytes : List Byte) :
    LeadsTo s.NoneRaised (createBody .remote bytes s) := by
  unfold createBody
  split
  · exact .error _
  · refine .ite ?_ (.error _)
    split
    · exact .error _
    · exact .allowed_electric fun hst => createChecked_noneRaised hc hst _ _

theorem setClock_noneRaised {s : State} (hc : s.table.Consistent) (hl : s.LevelsFollow) (bytes : List Byte) :
    LeadsTo s.NoneRaised (setClockBody .remote bytes s) := by
  refine .ite (.error _) (.guarded_remote fun hstarts => .ok ?_)
  have hnone := List.any_eq_false.mp hstarts
  refine .trans (.of_burners rfl) (placeAll_electric (s := s.withTime { s.time with clock := _, valid := true }) (hc.nearly _)
    (hl.of_eq rfl rfl) (jumpDue_pairwise s _) (jumpDue_allArmed s _) fun k hk r hr => ?_)
  have hk := hnone k hk
  rw [show s.table.rec? k = some r from hr, Option.elim_some] at hk
  exact Bool.eq_false_iff.mpr hk

/-! ### RETIRE and ACK (R29, R131, R147) -/

/-- A record that is not head leaves no burner lit or dark. -/
theorem retire_burners_other {s : State} {k : Nat} {r : Record} (hr : s.table.rec? k = some r) (hk : s.table.head r.station ≠ k) :
    (s.retire k true []).burners = s.burners := by
  rw [retire_eq hr, if_neg hk, removed_burners]

/-- A retirement that promotes no gas record. -/
theorem retire_noneRaised {s : State} (hc : s.table.Consistent) (hl : s.LevelsFollow) {k : Nat} {r : Record}
    (hr : s.table.rec? k = some r) (hguard : s.retirePromotesGas k r = false) : s.NoneRaised (s.retire k true []) := by
  have hn : s.table.Nearly noSlot (· ∈ ([] : List Nat)) := hc.nearly _
  by_cases hk : s.table.head r.station = k
  · rw [retire_eq hr, if_pos hk, if_pos rfl]
    intro st hg
    by_cases hst : st = r.station
    · subst hst
      have hempty : s.table.queue r.station = [] := by simpa [State.retirePromotesGas, hg, hk] using hguard
      have hdark := (removed_promoted hc hl hr hk).dark (by rw [removed_queue hn hr, hempty]; rfl) hg
      rw [hdark]
      exact Nat.zero_le _
    · rw [promote_burner_other _ hst, State.burner_congr (removed_burners s k r [])]
  · exact .of_burners (retire_burners_other hr hk)

theorem acknowledge_burners {s : State} (hc : s.table.Consistent) {k : Nat} {r : Record} (hr : s.table.rec? k = some r)
    (kind : AlertKind) : (s.acknowledge k kind r).burners = s.burners := by
  rw [acknowledge_eq]
  split
  · next h =>
    refine retire_burners_other hr ((hc.nearly noSlot).head_ne_of_not_isHead hr ?_ _)
    simp [Record.isHead, h.2.1, h.2.2]
  · rfl

theorem settleFrom_burners (s t : State) : (settleFrom s t).burners = t.burners := by rw [settleFrom_eq]

theorem ack_noneRaised {s : State} (hc : s.table.Consistent) (bytes : List Byte) : LeadsTo s.NoneRaised (ackBody .remote bytes s) := by
  unfold ackBody
  dsimp only
  split
  · exact .error _
  · exact .withRecord_at fun r hr => .allowed (.ok (.of_burners ((settleFrom_burners _ _).trans (acknowledge_burners hc hr _))))

/-! ### SKIP (R51, R52, R75, R147) -/

section

variable {s : State} {k : Nat} {r : Record}

/-- Who waits on the record that has ended waited on it before. -/
theorem finished_waiter (hc : s.table.Consistent) (hl : s.LevelsFollow) (hr : s.table.rec? k = some r) (hrun : r.state = .running)
    (hlast : r.stage = r.stages.length) {j : Nat} {q : Record} (hq : (s.finished k r).table.rec? j = some q)
    (hw : q.waitsOn k = true) : s.table.rec? j = some q := by
  have hended := finished_recordEnded hc hl hr hrun hlast
  have harmed := Record.waitsOn_armed hw
  have hjk : j ≠ k := by
    rintro rfl
    rw [finished_rec?_self hc hl hr hrun hlast] at hq
    obtain rfl := Option.some.inj hq
    exact RecordState.noConfusion harmed
  by_cases hstays : (r.stageAt? r.stage).elim false Stage.second = true ∨ (s.table.queue r.station).head? ≠ some j
  · rw [← hended.other_records j hjk hstays, hq]
  · obtain ⟨hoff, hfirst⟩ := not_or.mp hstays
    obtain ⟨rest, hqueue⟩ := List.head?_eq_some_iff.mp (not_not.mp hfirst)
    obtain ⟨-, -, p, -, hread, -⟩ := hended.off_queued (Bool.eq_false_iff.mpr hoff) j rest hqueue
    rw [hread] at hq
    obtain rfl := Option.some.inj hq
    exact RecordState.noConfusion harmed

/-- An electric record that ends changes no burner before its dependents are released. -/
theorem finished_electric (he : isGas r.station = false) : s.NoneRaised (s.finished k r) := by
  refine .of_burner fun st hg => ?_
  have hst := ne_of_isGas hg he
  unfold State.finished
  split
  · rw [follow_electric he]
    rfl
  · rw [promote_burner_other _ hst]
    rfl

/-- A release of electric records alone. -/
theorem release_electric (hn : s.table.Nearly noSlot noSlot) (hl : s.LevelsFollow)
    (h : ∀ j q, s.table.rec? j = some q → q.waitsOn k = true → q.start.offset = 0 → isGas q.station = false) :
    s.NoneRaised (s.release k) := by
  have hburners : (s.unlink k).burners = s.burners := by rw [unlink_eq]; rfl
  rw [release_eq]
  refine (State.NoneRaised.of_burners hburners).trans (placeAll_electric (unlink_nearly hn k) (unlink_levels hl k)
    (Table.slotsWhere_pairwise _ _) (unlink_allArmed s k) fun j hj q hq => ?_)
  obtain ⟨-, p, hp, hdue⟩ := Table.mem_slotsWhere.mp hj
  obtain ⟨p', hp', rfl⟩ := (unlink_mapped s k).rec?_some hq
  obtain rfl := Option.some.inj (hp.symm.trans hp')
  rw [Bool.and_eq_true, beq_iff_eq] at hdue
  have helectric := h j p hp hdue.1 hdue.2
  split <;> exact helectric

/-- A SKIP of an electric record that makes no gas record due. -/
theorem endStage_electric (hc : s.table.Consistent) (hl : s.LevelsFollow) (hr : s.table.rec? k = some r) (hrun : r.state = .running)
    (he : isGas r.station = false) (hguard : s.skipStartsGas k r = false) (j : Nat) : s.NoneRaised (s.endStage k j) := by
  simp only [State.endStage, hr]
  split
  · rw [nextStage_eq hr, follow_electric he]
    exact .of_burners rfl
  · next hnext =>
    have hnext : r.hasNextStage = false := Bool.eq_false_iff.mpr hnext
    have hlast : r.stage = r.stages.length := Nat.le_antisymm (hc.sound k r hr).index (by simpa [Record.hasNextStage] using hnext)
    have hkeeps := keeps_finished hr hrun hnext
    rw [endRecord_eq hr]
    refine State.NoneRaised.then_burners ((finished_electric he).trans
      (release_electric ((hkeeps.table hc).nearly _) (hkeeps.levels hc hl) fun d q hq hw h0 => ?_)) rfl
    have hq := finished_waiter hc hl hr hrun hlast hq hw
    refine Bool.eq_false_iff.mpr fun hg => Bool.eq_false_iff.mp hguard ?_
    exact skipStartsGas_of hlast.ge (Table.mem_allSlots_of_rec? hc.slots hq) hq hw (by simpa [isGas] using hg) h0

end

/-! ### The commands (R136) -/

theorem adjust_noneRaised (s : State) (bytes : List Byte) : LeadsTo s.NoneRaised (adjustBody .remote bytes s) := by
  refine .ite (.error _) (.withRecord fun r => .allowed ?_)
  split
  · exact .error _
  · exact .ok (.of_burners (settleFrom_burners _ _))

theorem getItem_noneRaised (p : Port) (bytes : List Byte) (s : State) : LeadsTo s.NoneRaised (getItemBody p bytes s) := by
  unfold getItemBody
  dsimp only
  split
  · exact .error _
  · exact .ok (.refl s)

/-- The work of each command, sent on the remote port. -/
theorem workOf_noneRaised {c : Instr} {code : Nat} (hcode : commandCode c = some code) {s : State} (hc : s.table.Consistent)
    (hl : s.LevelsFollow) (bytes : List Byte) : LeadsTo s.NoneRaised (workOf code .remote bytes s) := by
  cases c with
  | create => cases hcode; exact create_noneRaised hc bytes
  | retire =>
    cases hcode
    exact .withRecord_at fun r hr => .allowed (.guarded_remote fun hguard => .ok
      ((retire_noneRaised hc hl hr hguard).then_burners (settleFrom_burners _ _)))
  | pause =>
    cases hcode
    refine .withRecord_at fun r hr => .allowed (.inState (.ok ?_))
    rw [dropElements_follow]
    exact (modify_follow_noneRaised hl hr fun _ => by rw [Record.givenLevel_pauseAt]; exact Nat.zero_le _).then_burners rfl
  | resume =>
    cases hcode
    exact .withRecord_at fun r hr => .allowed_electric fun he => .inState (.ok
      (modify_follow_noneRaised hl hr fun hg => absurd rfl (ne_of_isGas hg he)))
  | adjust => cases hcode; exact adjust_noneRaised s bytes
  | setLevel =>
    cases hcode
    exact .ite (.error _) (.withRecord_at fun r hr => .ite (.error _) (.allowed_remote fun hlimit => .inState_when fun hset => .ok
      (modify_follow_noneRaised hl hr fun hg => Record.givenLevel_setLevel_le (hc.sound _ r hr) hset hg (hlimit hg))))
  | skip =>
    cases hcode
    exact .withRecord_at fun r hr => .allowed_electric fun he => .inState_when fun hrun => .guarded_remote fun hguard => .ok
      ((endStage_electric hc hl hr (beq_iff_eq.mp hrun) he hguard _).then_burners (settleFrom_burners _ _))
  | start =>
    cases hcode
    refine .withRecord_at fun r hr => .allowed_electric fun he => .inState (.ok (.of_burners (place_electric fun q hq => ?_)))
    rwa [← Option.some.inj (hr.symm.trans hq)]
  | query => cases hcode; exact .withRecord fun _ => .ok (.refl s)
  | list => cases hcode; exact .ite (.error _) (.ok (.refl s))
  | nextAlert => cases hcode; exact .ok (.refl s)
  | ack => cases hcode; exact ack_noneRaised hc bytes
  | silence => cases hcode; exact .ite (.ok (.of_burners rfl)) (.error _)
  | setClock => cases hcode; exact setClock_noneRaised hc hl bytes
  | getItem => cases hcode; exact getItem_noneRaised .remote bytes s
  | settingsStatus => cases hcode; exact .ok (.refl s)
  | window | setItem | storeSettings | grant | softReset | stationReset => cases hcode; exact .error .denied
  | _ => cases hcode

/-- The Command Unit's checks and its answer touch no burner. -/
theorem conclude_noneRaised {s : State} {v : Verdict} (h : LeadsTo s.NoneRaised v) (p : Port) (tag : Byte) :
    s.NoneRaised (s.conclude p tag v) := by
  cases v with
  | error rc => exact .of_burners (reply_burners ..)
  | ok x => exact (h x.1 x.2 rfl).then_burners (reply_burners ..)

/-- Settles O16: on a gas station each remote command is shut out or gives no higher level, and an electric station has no burner. -/
theorem remoteCommandsRaiseNoBurner : Obligations.RemoteCommandsRaiseNoBurner := by
  intro c code bytes s t hc hl hcode hchosen hexec st
  by_cases hg : isGas st = true
  · by_cases hcoded : codeOf? bytes = some code
    · let u := s.takeCommand .remote
      have hcu : u.table.Consistent := by rwa [takeCommand_table]
      have hwork : LeadsTo u.NoneRaised (s.verdict .remote code bytes) :=
        .ite (.error _) (.ite (.error _) (workOf_noneRaised hcode hcu (takeCommand_levelsFollow hl .remote) bytes))
      have hlevel := conclude_noneRaised hwork .remote (tagOf bytes) st hg
      rw [exec_chosen hcode hchosen hcoded] at hexec
      rw [takeCommand_burner] at hlevel
      rwa [← outcome_next_inj hexec]
    · rw [exec_eq_execute hcode, execute_other _ _ hchosen hcoded] at hexec
      rw [← outcome_next_inj hexec]
  · have helectric := burner_electric ((keeps_command hcode hexec).levels hc hl).six (Bool.eq_false_iff.mpr hg)
    rw [helectric]
    exact Nat.zero_le _

end Sys2Proof.Machine
end


section
/-! PROOFS. The frames of the panel port and what they send (R91, R92, R159 to R161, R163, R164, R183, R185): O58, O59. -/

namespace Sys2Proof.Machine

/-! ### What a frame's bytes do to the port (R159 to R161, R164, R183) -/

theorem tagOf_eq_headD (bytes : List Byte) : tagOf bytes = bytes.headD 0#8 := by cases bytes <;> rfl

theorem Reply.framed_eq (r : Reply) : r.framed = byteOf (2 + r.data.length) :: r.tag :: byteOf r.code.num :: r.data := by
  have hlength : r.bytes.length = 2 + r.data.length := Nat.add_comm r.data.length 2
  rw [Reply.framed, hlength]
  rfl

theorem frameOf_unknown {b : Byte} (h : b ∉ [1#8, 2#8, 3#8, 4#8]) : frameOf b = .unknown := by
  simp only [List.mem_cons, List.not_mem_nil, or_false, not_or] at h
  obtain ⟨h1, h2, h3, h4⟩ := h
  rw [frameOf, if_neg h1, if_neg h2, if_neg h3, if_neg h4]

namespace PanelPort

theorem takeType_unknown (p : PanelPort) {b : Byte} (h : b ∉ [1#8, 2#8, 3#8, 4#8]) :
    p.takeType b = { p with frame := .unknown, malformed := min 255 (p.malformed + 1) } := by
  rw [takeType, frameOf_unknown h]
  rfl

theorem takeCommand_queued {p : PanelPort} {bytes : List Byte} (hlength : bytes.length ≤ 64) (hroom : p.commands.length < 8) :
    p.takeCommand bytes = { p with frame := .idle, commands := p.commands ++ [bytes] } :=
  (if_neg (Nat.not_lt.mpr hlength)).trans (if_pos hroom)

theorem takeCommand_overrun {p : PanelPort} {bytes : List Byte} (hlength : bytes.length ≤ 64) (hfull : 8 ≤ p.commands.length) :
    p.takeCommand bytes = { p with frame := .idle, overrun := true } :=
  (if_neg (Nat.not_lt.mpr hlength)).trans (if_neg (Nat.not_lt.mpr hfull))

theorem takeCommand_badFrame {p : PanelPort} {bytes : List Byte} (hlength : 64 < bytes.length) (hroom : p.replies.length < 8) :
    p.takeCommand bytes = { p with frame := .idle, malformed := min 255 (p.malformed + 1), replies :=
      p.replies ++ [{ tag := bytes.headD 0#8, code := .badFrame, data := [] }] } := by
  rw [← tagOf_eq_headD]
  exact (if_pos hlength).trans (if_pos hroom)

theorem takeCommand_unanswered {p : PanelPort} {bytes : List Byte} (hlength : 64 < bytes.length) (hfull : 8 ≤ p.replies.length) :
    p.takeCommand bytes = { p with frame := .idle, malformed := min 255 (p.malformed + 1) } :=
  (if_pos hlength).trans (if_neg (Nat.not_lt.mpr hfull))

theorem fetch_empty {p : PanelPort} (h : p.replies = []) : p.fetch = { p with frame := .fetch (some [0#8]) } := by
  rw [fetch, h]

theorem fetch_oldest {p : PanelPort} {r : Reply} {rest : List Reply} (h : p.replies = r :: rest) :
    p.fetch = { p with
      frame := .fetch (some (byteOf (2 + r.data.length) :: r.tag :: byteOf r.code.num :: r.data)), replies := rest } := by
  rw [fetch, h, ← Reply.framed_eq]

end PanelPort

/-! ### What a frame sends (R159, R161, R163, R164) -/

theorem Frame.toHost_fetch (sent : List Byte) (n : Nat) : (Frame.fetch (some sent)).toHost (n + 1) = some (sent.getD n 0#8) := rfl

/-- A byte list read in its range. -/
theorem getD_of_getElem? {bytes : List Byte} {n : Nat} {b : Byte} (h : bytes[n]? = some b) : bytes.getD n 0#8 = b := by
  rw [List.getD_eq_getElem?_getD, h, Option.getD_some]

/-! ### The events of a frame in progress (R159 to R161, R163, R91) -/

section

variable {s : State} (hheld : s.held = false)

include hheld

theorem panelSends_released (n : Nat) : s.panelSends n = s.panel.frame.toHost n := by
  simp [State.panelSends, hheld]

theorem execPcsFall_begins (hframe : s.panel.frame = .idle) :
    execPcsFall s = .next (s.withPanel { s.panel with frame := .untyped }) := by
  simp [execPcsFall, hheld, hframe]

theorem execFrameTypeByte_takes (hframe : s.panel.frame = .untyped) (b : Byte) :
    execFrameTypeByte b s = .next (s.withPanel (s.panel.takeType b)) := by
  simp [execFrameTypeByte, hheld, hframe]

theorem execPcsRise_ends (hplain : s.panel.frame.endsPlainly = true) :
    execPcsRise s = .next (s.withPanel { s.panel with frame := .idle }) := by
  simp [execPcsRise, hheld, hplain]

theorem execCommandFrameEnd_takes {taken : List Byte} (hframe : s.panel.frame = .command taken) (rest : List Byte) :
    execCommandFrameEnd rest s = .next (s.withPanel (s.panel.takeCommand (taken ++ rest))) := by
  simp [execCommandFrameEnd, hheld, hframe]

theorem execFetchLengthByte_takes (hframe : s.panel.frame = .fetch none) :
    execFetchLengthByte s = .next (s.withPanel s.panel.fetch) := by
  simp [execFetchLengthByte, hheld, hframe]

theorem execPortStatusByte_takes (hframe : s.panel.frame = .status none) (clockedOut : Bool) :
    execPortStatusByte clockedOut s = .next (s.withPanel (s.panel.sendStatus clockedOut)) := by
  simp [execPortStatusByte, hheld, hframe]

theorem execReadWindowEnd_takes {e : Option (List Byte)} (hframe : s.panel.frame = .window e) :
    execReadWindowEnd s = .next { s with
      panel := { s.panel with frame := .idle }
      snap := if s.snap.deferred = true then { entries := snapshotOf s.table s.time.clock, deferred := false, syncCount := 5 }
        else s.snap } := by
  have hwindow : s.windowInProgress = true := by rw [State.windowInProgress, hframe]
  have hend : execReadWindowEnd s = .next (if s.snap.deferred = true then (s.withPanel { s.panel with frame := .idle }).takeRefresh
      else s.withPanel { s.panel with frame := .idle }) := by
    simp [execReadWindowEnd, hheld, hwindow]
  rw [hend]
  cases s.snap.deferred <;> rfl

end

/-! ### The statements -/

/-- Settles O58: each event of a frame in the frame it belongs to, and a COMMAND frame's end by length and by room. -/
theorem panelFramesAreTaken : Obligations.PanelFramesAreTaken := by
  intro s hheld
  refine ⟨fun hidle => execPcsFall_begins hheld hidle, fun huntyped => ?_, fun hplain => execPcsRise_ends hheld ?_,
    fun hsilent n => ?_, fun hidle n => ?_, fun taken rest hcommand => ?_⟩
  · have htype := execFrameTypeByte_takes hheld huntyped
    refine ⟨htype 1#8, htype 2#8, htype 3#8, htype 4#8, fun b hb => ?_⟩
    rw [← s.panel.takeType_unknown hb]
    exact htype b
  · obtain h | h | ⟨x, h⟩ | ⟨x, h⟩ := hplain <;> rw [h] <;> rfl
  · rw [panelSends_released hheld]
    obtain h | h | ⟨taken, h⟩ := hsilent <;> rw [h] <;> rfl
  · rw [panelSends_released hheld, hidle]
    rfl
  · intro bytes
    have hend : exec (.commandFrameEnd rest) s = .next (s.withPanel (s.panel.takeCommand bytes)) :=
      execCommandFrameEnd_takes hheld hcommand rest
    rw [hend]
    refine ⟨fun hlength hroom => ?_, fun hlength hfull => ?_, fun hlength hroom => ?_, fun hlength hfull => ?_⟩
    · rw [PanelPort.takeCommand_queued hlength hroom]; rfl
    · rw [PanelPort.takeCommand_overrun hlength hfull]; rfl
    · rw [PanelPort.takeCommand_badFrame hlength hroom]; rfl
    · rw [PanelPort.takeCommand_unanswered hlength hfull]; rfl

/-- Settles O59: the reading frames by what they take out of the port, then each frame's bytes by place. -/
theorem panelReadsAreServed : Obligations.PanelReadsAreServed := by
  intro s hheld
  have hsends := panelSends_released hheld
  refine ⟨fun hfetch => ?_, fun clockedOut hstatus => execPortStatusByte_takes hheld hstatus clockedOut, fun hdummy => ?_,
    fun sent hfetch => ?_, fun b c hstatus => ?_, fun entry n b hwindow hb => ?_, rfl,
    fun e hwindow => execReadWindowEnd_takes hheld hwindow⟩
  · have htakes : exec .fetchLengthByte s = .next (s.withPanel s.panel.fetch) := execFetchLengthByte_takes hheld hfetch
    rw [htakes]
    refine ⟨fun hempty => ?_, fun r rest hreplies => ?_⟩
    · rw [PanelPort.fetch_empty hempty]; rfl
    · rw [PanelPort.fetch_oldest hreplies]; rfl
  · rw [hsends]
    obtain h | h | h := hdummy <;> rw [h] <;> rfl
  · simp only [hsends, hfetch, Frame.toHost_fetch]
    refine ⟨rfl, fun n b hb => ?_, fun n hn => ?_⟩
    · rw [getD_of_getElem? hb]
    · rw [List.getD_eq_default _ _ hn]
  · simp only [hsends, hstatus]
    exact ⟨rfl, rfl, rfl, fun n hn => congrArg some (List.getD_eq_default _ _ hn)⟩
  · rw [hsends, hwindow]
    exact congrArg some (getD_of_getElem? hb)

end Sys2Proof.Machine
end


section
/-! PROOFS. The transactions of the remote port and what a read sends (R167 to R169, R183): O60. -/

namespace Sys2Proof.Machine

/-! ### What a transaction's events do to the port (R167 to R169) -/

namespace RemotePort

/-- The command queue once a START has ended the transaction in progress (R167; log 27). -/
def afterStart (p : RemotePort) : List (List Byte) :=
  match p.transaction with
  | .collecting b => p.commands ++ [[b]]
  | .idle | .addressed | .dropped | .reading _ => p.commands

theorem finish_nil (p : RemotePort) : p.finish [] = { p with commands := p.afterStart, transaction := .idle } := by
  rw [finish, afterStart]
  cases p.transaction <;> rfl

theorem finish_collecting {p : RemotePort} {b : Byte} {rest : List Byte} (h : p.transaction = .collecting b)
    (hlength : rest.length ≤ 63) : p.finish rest = { p with commands := p.commands ++ [b :: rest], transaction := .idle } := by
  rw [finish, h]
  exact if_pos (Nat.lt_succ_of_le hlength)

theorem finish_addressed {p : RemotePort} (h : p.transaction = .addressed) (rest : List Byte) :
    p.finish rest = { p with transaction := .idle } := by
  rw [finish, h]

theorem beginRead_empty {p : RemotePort} (h : p.replies = []) :
    p.beginRead = { p with transaction := .reading [0#8], ack := true } := by
  rw [beginRead, h]

theorem beginRead_oldest {p : RemotePort} {r : Reply} {rest : List Reply} (h : p.replies = r :: rest) :
    p.beginRead = { p with
      transaction := .reading (byteOf (2 + r.data.length) :: r.tag :: byteOf r.code.num :: r.data), replies := rest
      ack := true } := by
  rw [beginRead, h, ← Reply.framed_eq]

theorem takeAddress_other {p : RemotePort} {a : BitVec 7} (h : a ≠ p.address) (read : Bool) :
    p.takeAddress a read = { p with commands := p.afterStart, transaction := .idle, ack := false } := by
  rw [takeAddress, finish_nil]
  exact if_neg h

theorem takeAddress_write (p : RemotePort) :
    p.takeAddress p.address false = { p with commands := p.afterStart, transaction := .addressed, ack := true } := by
  rw [takeAddress, finish_nil]
  exact if_pos rfl

theorem takeAddress_read (p : RemotePort) :
    p.takeAddress p.address true = beginRead { p with commands := p.afterStart, transaction := .idle } := by
  rw [takeAddress, finish_nil]
  exact if_pos rfl

theorem takeAddress_read_empty {p : RemotePort} (h : p.replies = []) : p.takeAddress p.address true =
    { p with commands := p.afterStart, transaction := .reading [0#8], ack := true } :=
  p.takeAddress_read.trans (beginRead_empty h)

theorem takeAddress_read_oldest {p : RemotePort} {r : Reply} {rest : List Reply} (h : p.replies = r :: rest) :
    p.takeAddress p.address true = { p with
      commands := p.afterStart, transaction := .reading (byteOf (2 + r.data.length) :: r.tag :: byteOf r.code.num :: r.data)
      replies := rest, ack := true } :=
  p.takeAddress_read.trans (beginRead_oldest h)

theorem takeFirst_room {p : RemotePort} (h : p.commands.length < 4) (b : Byte) :
    p.takeFirst b = { p with transaction := .collecting b, ack := true } := if_pos h

theorem takeFirst_full {p : RemotePort} (h : 4 ≤ p.commands.length) (b : Byte) :
    p.takeFirst b = { p with transaction := .dropped, ack := false } := if_neg (Nat.not_lt.mpr h)

end RemotePort

/-! ### The events of a transaction in progress -/

section

variable {s : State} (hheld : s.held = false)

include hheld

theorem remoteSends_reading {sent : List Byte} (h : s.remote.transaction = .reading sent) (n : Nat) :
    s.remoteSends n = some (sent.getD n 0#8) := by
  simp [State.remoteSends, hheld, h, Transaction.toHost]

theorem execI2cAddress_takes (a : BitVec 7) (read : Bool) :
    execI2cAddress a read s = .next (s.withRemote (s.remote.takeAddress a read)) := by
  simp [execI2cAddress, hheld]

theorem execRemoteWriteFirstByte_takes (h : s.remote.transaction = .addressed) (b : Byte) :
    execRemoteWriteFirstByte b s = .next (s.withRemote (s.remote.takeFirst b)) := by
  simp [execRemoteWriteFirstByte, hheld, h]

theorem execRemoteWriteOverlong_drops (h : s.remote.isCollecting = true) :
    execRemoteWriteOverlong s = .next (s.withRemote { s.remote with transaction := .dropped, ack := false }) := by
  simp [execRemoteWriteOverlong, hheld, h]

theorem execRemoteWriteEnd_finishes (h : s.remote.isWriting = true) (rest : List Byte) :
    execRemoteWriteEnd rest s = .next (s.withRemote (s.remote.finish rest)) := by
  simp [execRemoteWriteEnd, hheld, h]

theorem execReadTransactionEnd_ends (h : s.remote.isReadOrDropped = true) :
    execReadTransactionEnd s = .next (s.withRemote { s.remote with transaction := .idle }) := by
  simp [execReadTransactionEnd, hheld, h]

end

/-! ### The statement -/

/-- Settles O60: an address byte by whose it is and what it asks for, then each event of a write, and of a read, in its transaction. -/
theorem remoteTransactionsAreServed : Obligations.RemoteTransactionsAreServed := by
  intro s hheld
  refine ⟨fun a read => ?_, fun b haddressed hroom => ?_, fun b haddressed hfull => ?_, fun b hcollecting => ?_,
    fun b rest hcollecting hlength => ?_, fun rest haddressed => ?_, fun hends => ?_, fun sent hreading => ?_⟩
  · intro waiting
    have hwaiting : waiting = s.remote.afterStart := rfl
    have haddress : ∀ a read, exec (.i2cAddress a read) s = .next (s.withRemote (s.remote.takeAddress a read)) :=
      execI2cAddress_takes hheld
    simp only [haddress, hwaiting]
    refine ⟨fun hother => ?_, ?_, fun hempty => ?_, fun r rest hreplies => ?_⟩
    · rw [RemotePort.takeAddress_other hother]; rfl
    · rw [RemotePort.takeAddress_write]; rfl
    · rw [RemotePort.takeAddress_read_empty hempty]; rfl
    · rw [RemotePort.takeAddress_read_oldest hreplies]; rfl
  · refine (execRemoteWriteFirstByte_takes hheld haddressed b).trans ?_
    rw [RemotePort.takeFirst_room hroom]; rfl
  · refine (execRemoteWriteFirstByte_takes hheld haddressed b).trans ?_
    rw [RemotePort.takeFirst_full hfull]; rfl
  · exact execRemoteWriteOverlong_drops hheld (by rw [RemotePort.isCollecting, hcollecting])
  · refine (execRemoteWriteEnd_finishes hheld (by rw [RemotePort.isWriting, hcollecting]) rest).trans ?_
    rw [RemotePort.finish_collecting hcollecting hlength]; rfl
  · refine (execRemoteWriteEnd_finishes hheld (by rw [RemotePort.isWriting, haddressed]) rest).trans ?_
    rw [RemotePort.finish_addressed haddressed]; rfl
  · refine execReadTransactionEnd_ends hheld ?_
    obtain ⟨x, h⟩ | h := hends <;> rw [RemotePort.isReadOrDropped, h]
  · simp only [remoteSends_reading hheld hreading]
    refine ⟨fun n b hb => ?_, fun n hn => ?_⟩
    · rw [getD_of_getElem? hb]
    · rw [List.getD_eq_default _ _ hn]

end Sys2Proof.Machine
end


section
/-! SUPPORT. The 29 working values in range: what replaces one, what a load applies, and Bs brought to B (R171, R172, R176). -/

namespace Sys2Proof.Machine

/-! ### Values in range (R171) -/

/-- Each of the 29 values lies in its item's range; Bs and B are not compared. -/
structure ValuesFit (values : List Nat) : Prop where
  all : values.length = Config.items.length
  items : ∀ p ∈ Config.items.zip values, itemAccepts p.1 p.2 = true

theorem SettingsUnit.InRange.fit {u : SettingsUnit} (h : u.InRange) : ValuesFit u.values := ⟨h.all, h.items⟩

theorem ValuesFit.inRange {u : SettingsUnit} (h : ValuesFit u.values)
    (hshed : u.loader ≠ .loading → u.value Config.shedId ≤ u.value Config.budgetId) : u.InRange := ⟨h.all, h.items, hshed⟩

/-- Only the values and the loader status decide. -/
theorem SettingsUnit.InRange.congr {u u' : SettingsUnit} (h : u.InRange) (hvalues : u'.values = u.values) (hload : u'.loader = u.loader) :
    u'.InRange := by
  refine ValuesFit.inRange (hvalues ▸ h.fit) fun hne => ?_
  rw [SettingsUnit.value, SettingsUnit.value, hvalues]
  exact h.shed (hload ▸ hne)

/-- The value at an item's place is one that the item accepts. -/
theorem ValuesFit.accepts {values : List Nat} (h : ValuesFit values) {i v : Nat} {it : Config.Item} (hit : Config.items[i]? = some it)
    (hv : values[i]? = some v) : itemAccepts it v = true :=
  h.items (it, v) (List.mem_iff_getElem?.mpr ⟨i, List.getElem?_zip_eq_some.mpr ⟨hit, hv⟩⟩)

theorem ValuesFit.set {values : List Nat} (h : ValuesFit values) {i v : Nat} {it : Config.Item} (hit : Config.items[i]? = some it)
    (hv : itemAccepts it v = true) : ValuesFit (values.set i v) where
  all := by rw [List.length_set, h.all]
  items p hp := by
    obtain ⟨j, hj⟩ := List.mem_iff_getElem?.mp hp
    obtain ⟨hitem, hvalue⟩ := List.getElem?_zip_eq_some.mp hj
    by_cases hji : i = j
    · subst hji
      obtain ⟨hlt, -⟩ := List.getElem?_eq_some_iff.mp hvalue
      rw [List.getElem?_set_self (by rwa [List.length_set] at hlt)] at hvalue
      rwa [← Option.some.inj hvalue, Option.some.inj (hitem.symm.trans hit)]
    · rw [List.getElem?_set_ne hji] at hvalue
      exact h.accepts hitem hvalue

theorem itemIndex_of_itemAt {id i : Nat} {it : Config.Item} (h : itemAt id = some (i, it)) : itemIndex id = i := by
  rw [itemIndex, h]; rfl

/-- The working value of an item is one that the item accepts. -/
theorem ValuesFit.accepts_value {u : SettingsUnit} (h : ValuesFit u.values) {id i : Nat} {it : Config.Item}
    (hat : itemAt id = some (i, it)) : itemAccepts it (u.value id) = true := by
  have hlt : i < u.values.length := by rw [h.all, ← itemIndex_of_itemAt hat]; exact itemIndex_lt hat
  refine h.accepts (itemAt_some hat).1 ?_
  rw [SettingsUnit.value, itemIndex_of_itemAt hat, List.getD_eq_getElem?_getD, List.getElem?_eq_getElem hlt, Option.getD_some]

theorem ValuesFit.withValue {u : SettingsUnit} (h : ValuesFit u.values) {id i v : Nat} {it : Config.Item}
    (hat : itemAt id = some (i, it)) (hv : itemAccepts it v = true) : ValuesFit (u.withValue id v).values := by
  show ValuesFit (u.values.set (itemIndex id) v)
  rw [itemIndex_of_itemAt hat]
  exact h.set (itemAt_some hat).1 hv

/-! ### Bs brought to B (R172, R176) -/

/-- A shed budget above the budget is brought down to it. -/
def SettingsUnit.capShed (u : SettingsUnit) : SettingsUnit :=
  u.withValue Config.shedId (min (u.value Config.shedId) (u.value Config.budgetId))

theorem itemAt_budget : itemAt Config.budgetId = some (10, ⟨0x30, 1000, 7200, 10, 3000⟩) := by decide
theorem itemAt_shed : itemAt Config.shedId = some (11, ⟨0x31, 0, 7200, 10, 1500⟩) := by decide

theorem itemAccepts_iff {it : Config.Item} {v : Nat} : itemAccepts it v = true ↔ it.low ≤ v ∧ v ≤ it.high ∧ v % it.step = 0 := by
  simp [itemAccepts, and_assoc]

/-- The lesser of an accepted Bs and an accepted B is an accepted Bs: both are whole multiples of 10 W. -/
theorem ValuesFit.capShed {u : SettingsUnit} (h : ValuesFit u.values) : ValuesFit u.capShed.values := by
  refine h.withValue itemAt_shed (itemAccepts_iff.mpr ?_)
  have hbudget := itemAccepts_iff.mp (h.accepts_value itemAt_budget)
  have hshed := itemAccepts_iff.mp (h.accepts_value itemAt_shed)
  simp only at hbudget hshed ⊢
  omega

theorem SettingsUnit.capShed_value_shed {u : SettingsUnit} (hlen : u.values.length = 29) :
    u.capShed.value Config.shedId = min (u.value Config.shedId) (u.value Config.budgetId) :=
  SettingsUnit.value_withValue_known hlen (by decide) _

theorem SettingsUnit.capShed_value_other (u : SettingsUnit) {id : Nat} (h : id ≠ Config.shedId) : u.capShed.value id = u.value id :=
  SettingsUnit.value_withValue_ne (by decide) h _

/-- Whatever the loader status, Bs is then at most B. -/
theorem SettingsUnit.capShed_le {u : SettingsUnit} (h : ValuesFit u.values) :
    u.capShed.value Config.shedId ≤ u.capShed.value Config.budgetId := by
  rw [SettingsUnit.capShed_value_shed h.all, u.capShed_value_other (by decide)]
  exact Nat.min_le_right _ _

/-! ### The values that a load applies (R176) -/

section

variable {u : SettingsUnit} {id i v : Nat} {it : Config.Item}

theorem applyEntry_unknown (hat : itemAt id = none) (v : Nat) : u.applyEntry id v = { u with skipped := u.skipped + 1 } := by
  rw [SettingsUnit.applyEntry, hat]

theorem applyEntry_rejected (hat : itemAt id = some (i, it)) (hv : itemAccepts it v = false) :
    u.applyEntry id v = { u with rejected := u.rejected + 1 } := by
  simp only [SettingsUnit.applyEntry, hat, hv, Bool.false_eq_true, if_false]

theorem applyEntry_applied (hat : itemAt id = some (i, it)) (hv : itemAccepts it v = true) :
    u.applyEntry id v = { u with values := u.values.set i v, applied := u.applied + 1 } := by
  simp only [SettingsUnit.applyEntry, hat, hv, if_true]

end

/-- An entry is skipped, rejected, or applied to a value that its item accepts; it counts once and touches nothing else. -/
theorem applyEntry_cases (u : SettingsUnit) (id v : Nat) :
    u.applyEntry id v = { u with skipped := u.skipped + 1 }
    ∨ u.applyEntry id v = { u with rejected := u.rejected + 1 }
    ∨ ∃ i it, itemAt id = some (i, it) ∧ itemAccepts it v = true
      ∧ u.applyEntry id v = { u with values := u.values.set i v, applied := u.applied + 1 } := by
  cases hat : itemAt id with
  | none => exact .inl (applyEntry_unknown hat v)
  | some p =>
    cases hv : itemAccepts p.2 v with
    | false => exact .inr (.inl (applyEntry_rejected hat hv))
    | true => exact .inr (.inr ⟨p.1, p.2, rfl, hv, applyEntry_applied hat hv⟩)

theorem applyEntry_finding (u : SettingsUnit) (id v : Nat) : (u.applyEntry id v).finding = u.finding := by
  rcases applyEntry_cases u id v with h | h | ⟨i, it, -, -, h⟩ <;> rw [h]

theorem ValuesFit.applyEntry {u : SettingsUnit} (h : ValuesFit u.values) (id v : Nat) : ValuesFit (u.applyEntry id v).values := by
  rcases applyEntry_cases u id v with he | he | ⟨i, it, hat, hv, he⟩ <;> rw [he]
  · exact h
  · exact h
  · exact h.set (itemAt_some hat).1 hv

theorem ValuesFit.loadNext {u : SettingsUnit} (h : ValuesFit u.values) (m : List Host.Cell) : ValuesFit (loadNext m u).values := by
  unfold Machine.loadNext
  split
  · exact h.applyEntry _ _
  · exact h

theorem loadNext_finding (m : List Host.Cell) (u : SettingsUnit) : (loadNext m u).finding = u.finding := by
  unfold loadNext
  split
  · exact applyEntry_finding u _ _
  · rfl

/-- What reading one more entry keeps, reading the rest of the image keeps. -/
theorem loadEntries_keeps {P : SettingsUnit → Prop} {m : List Host.Cell} (hnext : ∀ u, P u → P (loadNext m u)) :
    ∀ (n : Nat) (u : SettingsUnit), P u → P (loadEntries m n u)
  | 0, _, h => h
  | n + 1, u, h => loadEntries_keeps hnext n (loadNext m u) (hnext u h)

/-- The end of the load: the rest of the image is read, Bs is brought to B, and the status is the one found. -/
theorem finishLoad_eq (m : List Host.Cell) (u : SettingsUnit) : u.finishLoad m
    = { (loadEntries m (u.entryCount - u.entriesRead) u).capShed with
        loader := (loadEntries m (u.entryCount - u.entriesRead) u).finding } := rfl

theorem finishLoad_status (m : List Host.Cell) (u : SettingsUnit) :
    (u.finishLoad m).loader = u.finding ∧ (u.finishLoad m).finding = u.finding := by
  have hfinding : (loadEntries m (u.entryCount - u.entriesRead) u).finding = u.finding :=
    loadEntries_keeps (P := fun v => v.finding = u.finding) (fun v hv => (loadNext_finding m v).trans hv) _ u rfl
  exact ⟨hfinding, hfinding⟩

theorem finishLoad_inRange (m : List Host.Cell) {u : SettingsUnit} (h : ValuesFit u.values) : (u.finishLoad m).InRange := by
  have hread := loadEntries_keeps (P := fun v => ValuesFit v.values) (fun v hv => hv.loadNext m) (u.entryCount - u.entriesRead) u h
  rw [finishLoad_eq]
  exact ValuesFit.inRange (u := { SettingsUnit.capShed _ with loader := _ }) hread.capShed fun _ => SettingsUnit.capShed_le hread

/-! ### The values that SET ITEM and GRANT replace (R149, R172) -/

/-- A new budget brings Bs down to it. -/
theorem setBudget_eq {u : SettingsUnit} (hlen : u.values.length = 29) (v : Nat) :
    u.setBudget v = (u.withValue Config.budgetId v).capShed := by
  rw [SettingsUnit.capShed, SettingsUnit.value_withValue_known hlen (by decide), SettingsUnit.value_withValue_ne (by decide) (by decide),
    Nat.min_comm]
  rfl

theorem SettingsUnit.InRange.afterItem {u : SettingsUnit} (h : u.InRange) {id i v : Nat} {it : Config.Item}
    (hat : itemAt id = some (i, it)) (hv : u.acceptsItem it v = true) : (u.afterItem id v).InRange := by
  obtain ⟨-, hid⟩ := itemAt_some hat
  simp only [SettingsUnit.acceptsItem, Bool.and_eq_true, Bool.or_eq_true, bne_iff_ne, decide_eq_true_eq, hid] at hv
  obtain ⟨haccept, hshed⟩ := hv
  have hset := h.fit.withValue hat haccept
  unfold SettingsUnit.afterItem
  split
  · next hbudget =>
    subst hbudget
    rw [setBudget_eq h.all]
    exact hset.capShed.inRange fun _ => SettingsUnit.capShed_le hset
  · next hbudget =>
    refine hset.inRange fun hl => ?_
    rw [SettingsUnit.value_withValue_ne (itemIndex_lt hat) (Ne.symm hbudget)]
    rcases eq_or_ne id Config.shedId with rfl | hother
    · rw [SettingsUnit.value_withValue_known h.all (itemIndex_lt hat)]
      exact hshed.resolve_left fun hne => hne rfl
    · rw [SettingsUnit.value_withValue_ne (itemIndex_lt hat) hother.symm]
      exact h.shed hl

end Sys2Proof.Machine
end


section
/-! PROOFS. Every step keeps the working values in range and the settings memory canonical (R171, R172, R176): O13. -/

namespace Sys2Proof.Machine

/-- A change of state that keeps the working values in range and the memory in canonical form (log 6). -/
structure State.KeepsSettings (s t : State) : Prop where
  inRange : s.settings.InRange → t.settings.InRange
  wf : Memory.wf s.memory → Memory.wf t.memory

theorem State.KeepsSettings.chains : Chains State.KeepsSettings where
  refl _ := ⟨id, id⟩
  trans h g := ⟨g.inRange ∘ h.inRange, g.wf ∘ h.wf⟩

namespace State.KeepsSettings

theorem refl (s : State) : s.KeepsSettings s := chains.refl s
theorem trans {s t u : State} (h : s.KeepsSettings t) (g : t.KeepsSettings u) : s.KeepsSettings u := chains.trans h g
theorem ite {s t u : State} {c : Prop} [Decidable c] (h : s.KeepsSettings t) (g : s.KeepsSettings u) :
    s.KeepsSettings (if c then t else u) := chains.ite h g

theorem of_eq {s t : State} (hset : t.settings = s.settings) (hmem : t.memory = s.memory) : s.KeepsSettings t :=
  ⟨fun h => hset ▸ h, fun h => hmem ▸ h⟩

theorem of_sameHost {s t : State} (h : s.SameHost t) : s.KeepsSettings t := of_eq h.settings h.memory

/-- The settings stay or become in range, the memory stands. -/
theorem of_inRange {s t : State} (hset : s.settings.InRange → t.settings.InRange) (hmem : t.memory = s.memory) : s.KeepsSettings t :=
  ⟨hset, fun h => hmem ▸ h⟩

end State.KeepsSettings

/-! ### The shares of a boundary's work (R84, R176) -/

/-- Every share but the end of the load leaves the settings alone. -/
theorem perform_settings (s : State) {w : Work} (hw : w ≠ .loadEnd) : (s.perform w).settings = s.settings := by
  cases w with
  | count k => exact (countRecord_sameHost s k).settings
  | judge st => exact (judgeStation_sameHost s st).settings
  | openPeriod => exact (openPeriod_sameHost s).settings
  | alertTick => exact (alertTick_sameHost s).settings
  | clock => show s.advanceClock.settings = _; rw [advanceClock_eq]
  | refresh => show s.refreshDue.settings = _; unfold State.refreshDue; split <;> rfl
  | relays | closePeriod | syncTick | released _ => rfl
  | loadEnd => exact absurd rfl hw

theorem endLoad_settings (s : State) : s.endLoad.settings = s.settings.finishLoad s.memory := State.withLink_settings _ _

theorem perform_keepsSettings (s : State) (w : Work) : s.KeepsSettings (s.perform w) := by
  by_cases hw : w = .loadEnd
  · subst hw
    refine .of_inRange (fun h => ?_) (perform_sameBoard s _).memory
    show s.endLoad.settings.InRange
    rw [endLoad_settings]
    exact finishLoad_inRange s.memory h.fit
  · exact .of_eq (perform_settings s hw) (perform_sameBoard s w).memory

theorem takeOne_keepsSettings (s : State) (w : Work) : s.KeepsSettings (s.takeOne w) :=
  .ite ((State.KeepsSettings.of_eq rfl rfl : s.KeepsSettings (s.without w)).trans (perform_keepsSettings _ w)) (.refl s)

theorem take_keepsSettings (s : State) (w : Work) : s.KeepsSettings (s.take w) :=
  State.KeepsSettings.chains.take takeOne_keepsSettings s w

theorem crystalCycle_keepsSettings (s : State) (lines : Lines) (first later : List Work) :
    s.KeepsSettings (s.crystalCycle lines first later) :=
  .ite (.refl s) (.ite (State.KeepsSettings.chains.takeBoundary takeOne_keepsSettings (fun _ _ => .of_eq rfl rfl) s lines first later)
    (.of_eq rfl rfl))

/-! ### The Command Unit (R139) -/

section

variable (p : Port) (bytes : List Byte) (s : State)

theorem createChecked_sameHost (c : CreateParams) (sc : StartCondition) : LeadsTo s.SameHost (s.createChecked p c sc) := by
  refine .ite (.error _) (.ite (.error _) (.ite (.error _) ?_))
  split
  · exact .error _
  · exact .ite (.error _) (.ok (.ite ((withTable_sameHost s _).trans (place_sameHost _ _)) (withTable_sameHost s _)))

theorem create_sameHost : LeadsTo s.SameHost (createBody p bytes s) := by
  unfold createBody
  split
  · exact .error _
  · refine .ite ?_ (.error _)
    split
    · exact .error _
    · exact .allowed (createChecked_sameHost p s _ _)

theorem adjust_sameHost : LeadsTo s.SameHost (adjustBody p bytes s) := by
  refine .ite (.error _) (.withRecord fun r => .allowed ?_)
  split
  · exact .error _
  · exact .ok (settleFrom_sameHost (modify_sameHost s _ _) s)

theorem ack_sameHost : LeadsTo s.SameHost (ackBody p bytes s) := by
  unfold ackBody
  dsimp only
  split
  · exact .error _
  · exact .withRecord fun r => .allowed (.ok (settleFrom_sameHost (.ite (retire_sameHost s _ _ _) (modify_sameHost s _ _)) s))

theorem getItem_sameHost : LeadsTo s.SameHost (getItemBody p bytes s) := by
  unfold getItemBody
  dsimp only
  split
  · exact .error _
  · exact .ok (.rfl' s)

end

/-- The commands that work on records and alerts alone, or only answer, leave the hosts' side as it is. -/
theorem workOf_sameHost {c : Instr} {code : Nat} (hcode : commandCode c = some code)
    (hc : c ∉ [.setClock, .window, .setItem, .storeSettings, .grant, .softReset]) (p : Port) (bytes : List Byte) (u : State) :
    LeadsTo u.SameHost (workOf code p bytes u) := by
  cases c with
  | create => cases hcode; exact create_sameHost p bytes u
  | retire => cases hcode; exact .withRecord fun _ => .allowed (.guarded (.ok (settleFrom_sameHost (retire_sameHost u _ _ _) u)))
  | pause =>
    cases hcode
    exact .withRecord fun _ => .allowed (.inState (.ok
      (((modify_sameHost u _ _).trans (dropElements_sameHost _ _ _)).trans (follow_sameHost _ _))))
  | resume => cases hcode; exact .withRecord fun _ => .allowed (.inState (.ok ((modify_sameHost u _ _).trans (follow_sameHost _ _))))
  | adjust => cases hcode; exact adjust_sameHost p bytes u
  | setLevel =>
    cases hcode
    exact .ite (.error _) (.withRecord fun _ => .ite (.error _) (.allowed (.inState (.ok
      ((modify_sameHost u _ _).trans (follow_sameHost _ _))))))
  | skip =>
    cases hcode
    exact .withRecord fun _ => .allowed (.inState (.guarded (.ok
      (settleFrom_sameHost ((endStage_sameHost u _ _).trans (modify_sameHost _ _ _)) u))))
  | start => cases hcode; exact .withRecord fun _ => .allowed (.inState (.ok (place_sameHost u _)))
  | query => cases hcode; exact .withRecord fun _ => .ok (.rfl' u)
  | list => cases hcode; exact .ite (.error _) (.ok (.rfl' u))
  | ack => cases hcode; exact ack_sameHost p bytes u
  | silence => cases hcode; exact .ite (.ok (withAnn_sameHost u _)) (.error _)
  | getItem => cases hcode; exact getItem_sameHost p bytes u
  | nextAlert | settingsStatus => cases hcode; exact .ok (.rfl' u)
  | stationReset => cases hcode; exact .panelOnly (.ite (.error _) (.ok (stationReset_sameHost u _)))
  | setClock | window | setItem | storeSettings | grant | softReset => exact absurd (by decide) hc
  | _ => cases hcode

/-- An accepted SET ITEM: the value passed the item's check, and Bs stays at most B (R172). -/
theorem setItemBody_keepsSettings (p : Port) (bytes : List Byte) (s : State) : LeadsTo s.KeepsSettings (setItemBody p bytes s) := by
  refine .panelOnly (.notStoring ?_)
  dsimp only
  split
  · exact .error _
  · next i it hat =>
    intro t data h
    split at h
    · next haccept =>
      rw [← verdict_ok_inj h]
      refine .of_inRange (fun hs => ?_) (setItem_sameHost s _ _).memory
      rw [setItem_settings]
      exact hs.afterItem hat haccept
    · exact absurd h (by simp)

/-- A permission of a GRANT is one of the three (R149). -/
theorem setPermission_keepsSettings (s : State) {st v : Nat} (hst : st ≤ 7) (hv : v ≤ 2) : s.KeepsSettings (s.setPermission st v) := by
  obtain ⟨i, it, hat, hid, haccept⟩ := permission_item hst
  refine .of_inRange (fun h => ?_) (setPermission_sameHost s st v).memory
  have hitem : s.settings.withValue (0x50 + st) v = s.settings.afterItem (0x50 + st) v := by
    rw [SettingsUnit.afterItem, if_neg (by simp only [Config.budgetId]; omega)]
  rw [setPermission_settings, hitem]
  refine h.afterItem hat ?_
  rw [SettingsUnit.acceptsItem, haccept v hv, hid]
  simp only [Config.shedId, Bool.true_and, Bool.or_eq_true, bne_iff_ne]
  exact .inl (by omega)

theorem grant_keepsSettings (p : Port) (bytes : List Byte) (s : State) : LeadsTo s.KeepsSettings (grantBody p bytes s) := by
  refine .panelOnly (.notStoring ?_)
  intro t data h
  dsimp only at h
  split at h
  · exact absurd h (by simp)
  · rw [← verdict_ok_inj h]
    exact setPermission_keepsSettings s (by omega) (by omega)

theorem workOf_keepsSettings {c : Instr} {code : Nat} (hcode : commandCode c = some code) (p : Port) (bytes : List Byte) (u : State) :
    LeadsTo u.KeepsSettings (workOf code p bytes u) := by
  by_cases hc : c ∈ [.setClock, .window, .setItem, .storeSettings, .grant, .softReset]
  · simp only [List.mem_cons, List.not_mem_nil, or_false] at hc
    rcases hc with rfl | rfl | rfl | rfl | rfl | rfl <;> cases hcode
    · exact .ite (.error _) (.guarded (.ok (.of_eq (placeAll_sameHost _ _).settings (placeAll_sameHost _ _).memory)))
    · exact .panelOnly (.ite (.ok (.of_eq rfl rfl)) (.error _))
    · exact setItemBody_keepsSettings p bytes u
    · exact .panelOnly (.notStoring (.ok (.of_inRange (fun h => h.congr rfl rfl) rfl)))
    · exact grant_keepsSettings p bytes u
    · exact .panelOnly (.ok (.of_eq rfl rfl))
  · exact fun t data h => .of_sameHost (workOf_sameHost hcode hc p bytes u t data h)

theorem conclude_keepsSettings {s : State} {v : Verdict} (h : LeadsTo s.KeepsSettings v) (p : Port) (tag : Byte) :
    s.KeepsSettings (s.conclude p tag v) := by
  cases v with
  | error c => exact .of_eq (reply_settings s p _) (reply_memory s p _)
  | ok x => exact (h x.1 x.2 rfl).trans (.of_eq (reply_settings (s.afterCommand x.1) p _) (reply_memory (s.afterCommand x.1) p _))

theorem command_keepsSettings {c : Instr} {code : Nat} (hcode : commandCode c = some code) {s t : State} (h : exec c s = .next t) :
    s.KeepsSettings t := by
  rw [exec_eq_execute hcode] at h
  rw [← outcome_next_inj h]
  split
  · exact .refl s
  · next p bytes _ =>
    refine .ite (.trans (.of_eq (takeCommand_settings s p) (takeCommand_memory s p)) (conclude_keepsSettings ?_ p _)) (.refl s)
    exact .ite (.error _) (.ite (.error _) (workOf_keepsSettings hcode p bytes _))

theorem refusal_keepsSettings (s : State) (p : Port) (tag : Byte) (c : ResultCode) :
    s.KeepsSettings ((s.takeCommand p).conclude p tag (.error c)) :=
  .trans (.of_eq (takeCommand_settings s p) (takeCommand_memory s p)) (conclude_keepsSettings (.error c) p tag)

theorem badCommand_keepsSettings {s t : State} (h : exec .badCommand s = .next t) : s.KeepsSettings t := by
  rw [← outcome_next_inj h]
  split
  · exact .refl s
  · split
    · exact .refl s
    · exact .ite (.refl s) (refusal_keepsSettings s _ _ _)

theorem commandWithoutCode_keepsSettings {s t : State} (h : exec .commandWithoutCode s = .next t) : s.KeepsSettings t := by
  rw [← outcome_next_inj h]
  split
  · exact .refl s
  · split
    · exact .refl s
    · exact refusal_keepsSettings s _ _ _

/-! ### Power, load and store (R8, R175 to R178) -/

/-- A load begins on the defaults. -/
theorem beginLoad_inRange (status : List Byte) (m : List Host.Cell) : (beginLoad status m).InRange := by
  obtain ⟨finding, n, part, h⟩ := beginLoad_cases status m
  rw [h]
  exact powerUp_inRange finding n part

theorem memoryAfterCut_wf {s : State} (h : Memory.wf s.memory) (landed : Bool) : Memory.wf (s.memoryAfterCut landed) := by
  unfold State.memoryAfterCut
  split
  · split
    · exact Memory.writeBytes_wf _ _ h
    · exact h
  all_goals exact h

theorem memoryAfterAbandon_wf {s : State} (h : Memory.wf s.memory) (landed : Bool) : Memory.wf (s.memoryAfterAbandon landed) := by
  unfold State.memoryAfterAbandon
  split
  · split
    · exact Memory.writeBytes_wf _ _ h
    · exact Memory.write_wf _ _ (memoryAfterCut_wf h landed)
  all_goals exact h

theorem memoryAfterTimeout_wf {s : State} (h : Memory.wf s.memory) (n : Nat) (left : List Byte) :
    Memory.wf (s.memoryAfterTimeout n left) := by
  unfold State.memoryAfterTimeout
  dsimp only
  split <;> exact Memory.writeBytes_wf _ _ h

theorem loadEntry_keepsSettings {s t : State} (h : exec .loadEntry s = .next t) : s.KeepsSettings t := by
  rw [← outcome_next_inj h]
  split
  · exact .refl s
  · next hload =>
    have hl : s.settings.loader = .loading := by
      by_contra hn
      simp [State.loading, hn] at hload
    refine .of_inRange (fun hs => ?_) (State.withLink_memory _ _)
    rw [State.withLink_settings, State.withSettings_settings]
    exact (hs.fit.loadNext s.memory).inRange fun hne => absurd ((loadNext_loader _ _).trans hl) hne

/-- A write of a store changes the memory, and no working value. -/
theorem storeWrite_keepsSettings {s : State} {u : SettingsUnit} {m : List Host.Cell} (hload : u.loader = s.settings.loader)
    (hvalues : u.values = s.settings.values) (hm : Memory.wf s.memory → Memory.wf m) (ts : List Transfer) :
    s.KeepsSettings (((s.withMemory m).withLink ts).withSettings u) where
  inRange h := h.congr hvalues hload
  wf h := by simpa using hm h

theorem exec_keepsSettings (c : Instr) {s t : State} (h : exec c s = .next t) : s.KeepsSettings t := by
  cases hcode : commandCode c with
  | some code => exact command_keepsSettings hcode h
  | none =>
    cases c with
    | powerOn radr status landed => exact outcome_next_inj h ▸ ⟨fun _ => beginLoad_inRange _ _, fun hm => memoryAfterCut_wf hm landed⟩
    | resetnLow landed =>
      exact outcome_next_inj h ▸ .ite (.refl s) ⟨fun _ => powerUp_inRange _ _ _, fun hm => memoryAfterAbandon_wf hm landed⟩
    | resetnRelease radr status => exact outcome_next_inj h ▸ .ite ⟨fun _ => beginLoad_inRange _ _, id⟩ (.refl s)
    | sliceBoundary lines first later =>
      have hlast : s.KeepsSettings s.toLastCycle := .ite (.refl s) (.of_eq rfl rfl)
      exact outcome_next_inj h ▸ hlast.trans (crystalCycle_keepsSettings _ _ _ _)
    | loadEntry => exact loadEntry_keepsSettings h
    | secondBoundary => exact outcome_next_inj h ▸ (take_keepsSettings s _).trans (take_keepsSettings _ _)
    | loadEnd | periodBoundary => exact outcome_next_inj h ▸ take_keepsSettings s _
    | syncFall | delayDue _ | offsetDue _ | stageEnd _ | recordEnd _ | flameLoss _ | soundTimeout =>
      exact outcome_next_inj h ▸ .ite (take_keepsSettings s _) (.refl s)
    | badCommand => exact badCommand_keepsSettings h
    | commandWithoutCode => exact commandWithoutCode_keepsSettings h
    | storeWriteComplete =>
      rw [← outcome_next_inj h]
      split
      · exact storeWrite_keepsSettings (by split <;> rfl) (by split <;> rfl) (Memory.writeBytes_wf _ _) _
      all_goals exact .refl s
    | storeWriteTimeout left =>
      rw [← outcome_next_inj h]
      split
      · exact storeWrite_keepsSettings (by rfl) (by rfl) (fun hm => memoryAfterTimeout_wf hm _ left) _
      all_goals exact .refl s
    | commandFrameEnd bytes =>
      rw [← outcome_next_inj h]
      split
      · exact .ite (.refl s) (.of_eq rfl rfl)
      all_goals exact .refl s
    | readWindowEnd => exact outcome_next_inj h ▸ .ite (.refl s) (.ite (.of_eq rfl rfl) (.of_eq rfl rfl))
    | pcsFall | frameTypeByte _ | fetchLengthByte | windowEntry | portStatusByte _ | i2cAddress _ _ | remoteWriteFirstByte _
    | remoteWriteOverlong | remoteWriteEnd _ | pcsRise | readTransactionEnd =>
      exact outcome_next_inj h ▸ .ite (.refl s) (.of_eq rfl rfl)
    | _ => exact absurd hcode (by simp [commandCode])

/-- Settles O13: a value is replaced only by one its item accepts, Bs is set with B in view, and every write keeps the memory's form. -/
theorem stepKeepsSettingsInRange : Obligations.StepKeepsSettingsInRange := by
  intro s t h
  have hkeeps : s.KeepsSettings t := by
    unfold step at h
    cases hp : s.pending with
    | nil =>
      rw [hp] at h
      rw [← outcome_next_inj h]
      exact crystalCycle_keepsSettings s _ _ _
    | cons c rest =>
      rw [hp] at h
      exact (State.KeepsSettings.of_eq (s := s) (t := { s with pending := rest }) rfl rfl).trans (exec_keepsSettings c h)
  exact ⟨hkeeps.inRange, hkeeps.wf⟩

end Sys2Proof.Machine
end


section
/-! PROOFS. The beginning of the start-up load, and RESETn low (R8, R170, R174, R175, R178): O5, O6. -/

namespace Sys2Proof.Machine

/-! ### The status bytes (R174, R175) -/

section

variable {b : Byte} {rest : List Byte}

theorem status_absent (h : b = 0xFF#8) : statusReady (b :: rest) = false ∧ statusReads (b :: rest) = [b] := by
  simp [statusReady, statusReads, h]

/-- A busy status is read again. -/
theorem status_busy (hb : b ≠ 0xFF#8) (h : b.getLsbD 0 = true) :
    statusReady (b :: rest) = statusReady rest ∧ statusReads (b :: rest) = b :: statusReads rest := by
  have hbusy : busy b = true := h
  simp [statusReady, statusReads, hb, hbusy]

theorem status_ready (hb : b ≠ 0xFF#8) (h : b.getLsbD 0 = false) :
    statusReady (b :: rest) = true ∧ statusReads (b :: rest) = [b] := by
  have hbusy : busy b = false := h
  simp [statusReady, statusReads, hb, hbusy]

/-- A status whose busy bit is clear is not 0xFF. -/
theorem status_ne_absent (h : b.getLsbD 0 = false) : b ≠ 0xFF#8 := fun he => by simp [he] at h

end

/-! ### What the header makes of the load (R175) -/

section

variable {status : List Byte} {m : List Host.Cell}

theorem beginLoad_absent (h : statusReady status = false) : beginLoad status m = .powerUp .absent 0 false := by
  simp [beginLoad, h]

theorem headerOk_iff : headerOk m = true ↔ Memory.read m 0 = 0xA6#8 ∧ Memory.read m 1 = 0x01#8 := by
  simp [headerOk]

theorem beginLoad_blank (h : statusReady status = true) (hm : Memory.read m 0 ≠ 0xA6#8 ∨ Memory.read m 1 ≠ 0x01#8) :
    beginLoad status m = .powerUp .blank 0 false := by
  rw [beginLoad, if_pos h, if_neg fun hok => ?_]
  obtain ⟨hsignature, hversion⟩ := headerOk_iff.mp hok
  exact hm.elim (· hsignature) (· hversion)

theorem beginLoad_loaded (h : statusReady status = true) (h0 : Memory.read m 0 = 0xA6#8) (h1 : Memory.read m 1 = 0x01#8) :
    beginLoad status m = .powerUp .loaded (min 1536 (headerCount m) / 6) (headerCount m % 6 != 0) := by
  rw [beginLoad, if_pos h, if_pos (headerOk_iff.mpr ⟨h0, h1⟩)]

/-- The byte count of the header, least significant byte first (R179). -/
theorem headerCount_eq (m : List Host.Cell) : headerCount m = (Memory.read m 2).toNat + 256 * (Memory.read m 3).toNat := by
  simp [headerCount, Memory.readBytes, leValue, List.range_succ]

theorem headerTransfers_ready (h : statusReady status = true) : headerTransfers status m
    = (statusReads status).map Transfer.readStatus ++ [Transfer.exchange [0x0B#8, 0#8, 0#8]
        [Memory.read m 0, Memory.read m 1, Memory.read m 2, Memory.read m 3]] := by
  rw [headerTransfers, if_pos h]
  rfl

end

/-- Settles O5: the status list by its first byte, then the header by its first two. -/
theorem headerDecidesTheLoad : Obligations.HeaderDecidesTheLoad := by
  intro radr b rest landed s
  let m := s.memoryAfterCut landed
  refine ⟨s.startPart radr (b :: rest) m, rfl, fun hb => ?_, fun hb => ?_, fun hb hbusy => ⟨s.startPart radr rest m, rfl, ?_⟩,
    fun hb hready => ?_, fun hb hready => ⟨fun hm => ?_, fun h0 h1 => ?_⟩⟩
  · show (beginLoad (b :: rest) m).finding = _ ∧ (beginLoad (b :: rest) m).entryCount = _
    rw [beginLoad_absent (status_absent hb).1]
    exact ⟨rfl, rfl⟩
  · show headerTransfers (b :: rest) m = _
    obtain ⟨hready, hreads⟩ := status_absent (rest := rest) hb
    rw [headerTransfers, hreads, hready]
    rfl
  · obtain ⟨hready, hreads⟩ := status_busy (rest := rest) hb hbusy
    simp only [State.startPart, beginLoad, headerTransfers, hready, hreads]
    rfl
  · show headerTransfers (b :: rest) m = _
    obtain ⟨hready, hreads⟩ := status_ready (rest := rest) hb hready
    rw [headerTransfers_ready hready, hreads]
    rfl
  · show (beginLoad (b :: rest) m).finding = _ ∧ (beginLoad (b :: rest) m).entryCount = _
    rw [beginLoad_blank (m := m) (status_ready hb hready).1 hm]
    exact ⟨rfl, rfl⟩
  · intro n
    have hcount : headerCount m = n := headerCount_eq m
    show (beginLoad (b :: rest) m).finding = _ ∧ (beginLoad (b :: rest) m).entryCount = _
      ∧ ((beginLoad (b :: rest) m).partialEntry = true ↔ _)
    rw [beginLoad_loaded (m := m) (status_ready hb hready).1 h0 h1, hcount]
    exact ⟨rfl, rfl, bne_iff_ne⟩

/-! ### RESETn low (R8, R178) -/

/-- The part as a low level on RESETn leaves it. -/
def State.heldDown (s : State) (landed : Bool) : State :=
  { State.powerUp 0#2 (.powerUp .blank 0 false) (s.memoryAfterAbandon landed) s.pending with
    held := true, remote := { RemotePort.powerUp 0#2 with address := s.remote.address } }

theorem exec_resetnLow {s : State} (h : s.held = false) (landed : Bool) : exec (.resetnLow landed) s = .next (s.heldDown landed) :=
  congrArg Host.Outcome.next (if_neg (by simp [h]))

/-- While RESETn is low no output is on (R8 to R10, R92, R126, R130, R162). -/
theorem outputs_off {s : State} (h : s.held = true) : (∀ e, s.relayLine e = false) ∧ (∀ st, s.levelLine st = 0) ∧ s.buz = false
    ∧ s.ready = false ∧ s.pattn = false ∧ s.sync = false ∧ s.rattn = false := by
  simp [State.relayLine, State.levelLine, State.outputsHeld, State.buz, State.ready, State.pattn, State.sync, State.rattn, h]

section

variable {s : State} {n : Nat}

theorem memoryAfterAbandon_idle (h : s.settings.storing = false) (landed : Bool) : s.memoryAfterAbandon landed = s.memory := by
  unfold State.memoryAfterAbandon
  unfold SettingsUnit.storing at h
  cases hs : s.settings.store <;> simp_all

/-- Unless write 6 was completed by the memory itself, byte 0 is cleared (R178; log 11). -/
theorem memoryAfterAbandon_cleared (hs : s.settings.store = .inProgress n) {landed : Bool} (h : landed = false ∨ n ≠ 6) :
    s.memoryAfterAbandon landed = Memory.write (s.memoryAfterCut landed) 0 0#8 := by
  simp only [State.memoryAfterAbandon, hs]
  exact if_neg (by rcases h with h | h <;> simp [h])

theorem memoryAfterAbandon_signed (hs : s.settings.store = .inProgress 6) :
    s.memoryAfterAbandon true = Memory.write s.memory 0 0xA6#8 := by
  simp only [State.memoryAfterAbandon, hs]
  rfl

theorem memoryAfterCut_unlanded (s : State) : s.memoryAfterCut false = s.memory := by
  unfold State.memoryAfterCut
  split
  · exact if_neg Bool.false_ne_true
  all_goals rfl

/-- A release reads the memory as RESETn left it; byte 0 of 0x00 makes it BLANK (R175). -/
theorem release_finds_blank (hheld : s.held = true) (h0 : Memory.read s.memory 0 = 0#8) (radr : BitVec 2) {b : Byte}
    (hb : b.getLsbD 0 = false) : ∃ u, exec (.resetnRelease radr [b]) s = .next u ∧ u.settings.finding = .blank := by
  refine ⟨s.startPart radr [b] s.memory, congrArg Host.Outcome.next (if_pos hheld), ?_⟩
  show (beginLoad [b] s.memory).finding = _
  rw [beginLoad_blank (status_ready (status_ne_absent hb) hb).1 (.inl (by rw [h0]; decide))]
  rfl

end

/-- Settles O6: the outputs by RESETn, the memory by what the store had under way, and every other event by the part being held. -/
theorem resetnLowHoldsThePart : Obligations.ResetnLowHoldsThePart := by
  refine ⟨fun landed s h => ?_, fun s h => ?_⟩
  · let t := s.heldDown landed
    obtain ⟨hrelay, hlevel, hbuz, hready, hpattn, hsync, hrattn⟩ := outputs_off (s := t) rfl
    refine ⟨t, exec_resetnLow h landed, rfl, hrelay, hlevel, hbuz, hready, hpattn, hsync, hrattn, Table.empty_rec?,
      rfl, rfl, rfl, rfl, rfl, rfl, rfl, rfl, rfl, fun hs => memoryAfterAbandon_idle hs landed,
      fun n hs hwf => ⟨fun hn => ?_, fun hl a ha => ?_, fun hl hn => ?_⟩⟩
    · have hzero : Memory.read t.memory 0 = 0#8 :=
        (congrArg (Memory.read · 0) (memoryAfterAbandon_cleared hs hn)).trans (Memory.read_write_same 0 0#8 (memoryAfterCut_wf hwf landed))
      exact ⟨hzero, fun radr b hb => release_finds_blank (s := t) rfl hzero radr hb⟩
    · refine (congrArg (Memory.read · a) (memoryAfterAbandon_cleared hs (.inl hl))).trans ?_
      rw [hl, memoryAfterCut_unlanded]
      exact Memory.read_write_other 0 a 0#8 ha
    · subst hl hn
      exact (congrArg (Memory.read · 0) (memoryAfterAbandon_signed hs)).trans (Memory.read_write_same 0 0xA6#8 hwf)
  · have hstays : ∀ {c : Bool} {x : State},
        (Host.Outcome.next (if s.held || c then s else x) : Host.Outcome State Fault Refusal) = .next s :=
      congrArg Host.Outcome.next (if_pos (by simp [h]))
    refine ⟨hstays, fun _ => hstays, fun bs => ?_, hstays, hstays, hstays, fun _ => hstays, hstays,
      fun _ _ => congrArg Host.Outcome.next (if_pos h), fun _ => hstays, hstays, fun _ => hstays, hstays,
      congrArg Host.Outcome.next (if_pos (by simp [h])), fun lines first later => ?_⟩
    · show Host.Outcome.next _ = _
      split
      · exact congrArg Host.Outcome.next (if_pos h)
      all_goals rfl
    · have hlast : s.toLastCycle = s := if_pos h
      show Host.Outcome.next (s.toLastCycle.crystalCycle lines first later) = _
      rw [hlast, crystalCycle_held h]

end Sys2Proof.Machine
end


section
/-! PROOFS. The entries of the image and the end of the load (R171, R174, R176): O7, O8. -/

namespace Sys2Proof.Machine

/-! ### One entry (R174, R176) -/

/-- LOAD_ENTRY, with an entry left to read: the entry is applied, and its six bytes are one data read of the link (log 34). -/
theorem exec_loadEntry {s : State} (hheld : s.held = false) (hload : s.loading = true)
    (hleft : s.settings.entriesRead < s.settings.entryCount) :
    exec .loadEntry s = .next { s with
      settings := loadNext s.memory s.settings, link := [Transfer.readData s.memory (4 + 6 * s.settings.entriesRead) 6] } :=
  congrArg Host.Outcome.next (if_neg (by simp [hheld, hload, hleft]))

/-- The entry at the front of what is left: its id and its value, least significant byte first (R179). -/
theorem loadNext_left {m : List Host.Cell} {u : SettingsUnit} (h : u.entriesRead < u.entryCount) : loadNext m u =
    { u.applyEntry (leValue (Memory.readBytes m (4 + 6 * u.entriesRead) 2)) (leValue (Memory.readBytes m (4 + 6 * u.entriesRead + 2) 4))
      with entriesRead := u.entriesRead + 1 } := if_pos h

/-- Settles O7, by what becomes of the entry: unknown, out of range, in range. -/
theorem loadEntryIsCounted : Obligations.LoadEntryIsCounted := by
  intro s hheld hload hleft a id v
  have hloader : s.settings.loader = .loading := by simpa [State.loading] using hload
  have hnext : loadNext s.memory s.settings = { s.settings.applyEntry id v with entriesRead := s.settings.entriesRead + 1 } :=
    loadNext_left hleft
  refine ⟨_, exec_loadEntry hheld hload hleft, rfl, congrArg SettingsUnit.entriesRead hnext, (loadNext_loader _ _).trans hloader,
    fun hat => ?_, fun i it hat hout => ?_, fun i it hat hin => ?_⟩
  · simp only [hnext, applyEntry_unknown hat]
  · have hreject : itemAccepts it v = false := Bool.eq_false_iff.mpr (hout ∘ itemAccepts_iff.mp)
    simp only [hnext, applyEntry_rejected hat hreject]
  · simp only [hnext, applyEntry_applied hat (itemAccepts_iff.mpr hin)]

/-! ### The end of the load (R176) -/

/-- With every entry read, the end of the load brings Bs to B and sets the status found. -/
theorem finishLoad_read (m : List Host.Cell) {u : SettingsUnit} (h : u.entriesRead = u.entryCount) :
    u.finishLoad m = { u.capShed with loader := u.finding } := by
  rw [finishLoad_eq, h, Nat.sub_self]
  rfl

theorem endLoad_read {s : State} (h : s.settings.entriesRead = s.settings.entryCount) :
    s.endLoad = s.withSettings { s.settings.capShed with loader := s.settings.finding } := by
  rw [State.endLoad, finishLoad_read s.memory h, h, Nat.sub_self]
  rfl

theorem exec_loadEnd {s : State} (h : s.awaits .loadEnd = true) (hread : s.settings.entriesRead = s.settings.entryCount) :
    exec .loadEnd s = .next { s with
      settings := { s.settings.capShed with loader := s.settings.finding }, todo := s.todo.filter (fun w => w != .loadEnd) } := by
  have htake : s.take .loadEnd = (s.without .loadEnd).endLoad := (if_pos h).trans (takeOne_awaited h)
  show Host.Outcome.next (s.take .loadEnd) = _
  rw [htake, endLoad_read (s := s.without .loadEnd) hread]
  rfl

/-- Settles O8: with nothing left to read, Bs is the one value that may change. -/
theorem loadEndIsFinal : Obligations.LoadEndIsFinal := fun s h hread hlen =>
  ⟨_, exec_loadEnd h hread, rfl, rfl, SettingsUnit.capShed_value_shed (u := s.settings) hlen,
    fun _ hid => s.settings.capShed_value_other hid⟩

end Sys2Proof.Machine
end


section
/-! SUPPORT. Bytes written to the settings memory and read back, the fields and the entries of the image, and the pages of a store
(R174, R177, R179, R186). -/

namespace Sys2Proof.Machine

/-! ### Bytes written and read (R174) -/

/-- A read after bytes were written: within them the byte written there, elsewhere what stood there. -/
theorem Memory.read_writeBytes {m : List Host.Cell} (h : Memory.wf m) (vs : List Byte) (b a : Nat) :
    Memory.read (Memory.writeBytes m b vs) a = if b ≤ a ∧ a < b + vs.length then vs.getD (a - b) 0#8 else Memory.read m a := by
  split
  · next hin =>
    obtain ⟨i, rfl⟩ := Nat.exists_eq_add_of_le hin.1
    have hi : i < vs.length := by omega
    rw [Memory.read_writeBytes_same vs b i h hi, Nat.add_sub_cancel_left, List.getD_eq_getElem?_getD, List.getElem?_eq_getElem hi,
      Option.getD_some]
  · exact Memory.read_writeBytes_other vs b a (by omega)

/-- A stretch of the memory that holds an image's bytes reads as that stretch of the image. -/
theorem Memory.readBytes_eq {m : List Host.Cell} {image : List Byte} {a n : Nat} (hlen : a + n ≤ image.length)
    (h : ∀ i, i < n → Memory.read m (a + i) = image.getD (a + i) 0#8) : Memory.readBytes m a n = (image.drop a).take n := by
  refine List.ext_getElem (by simp [Memory.readBytes]; omega) fun i hi _ => ?_
  have hin : i < n := by simpa [Memory.readBytes] using hi
  have hlt : a + i < image.length := by omega
  simp [Memory.readBytes, h i hin, List.getElem?_eq_getElem hlt]

/-! ### Fields (R179) -/

theorem leBytes_length (n v : Nat) : (leBytes n v).length = n := by
  induction n generalizing v with
  | zero => rfl
  | succ n ih => rw [leBytes, List.length_cons, ih]

/-- A field holds its value up to the field's width. -/
theorem leValue_leBytes (n v : Nat) : leValue (leBytes n v) = v % 256 ^ n := by
  induction n generalizing v with
  | zero => rw [leBytes, leValue, Nat.pow_zero, Nat.mod_one]
  | succ n ih =>
    have hsplit : v % 256 ^ (n + 1) = v % 256 + 256 * (v / 256 % 256 ^ n) := by rw [Nat.pow_succ', Nat.mod_mul]
    rw [leBytes, leValue, ih, BitVec.toNat_ofNat, hsplit]

/-! ### The image (R177, R186) -/

/-- The six bytes of an entry of the image: id and value. -/
def entryBytes (p : Config.Item × Nat) : List Byte := leBytes 2 p.1.id ++ leBytes 4 p.2

theorem entryBytes_length (p : Config.Item × Nat) : (entryBytes p).length = 6 := by
  rw [entryBytes, List.length_append, leBytes_length, leBytes_length]

/-- The header of the image: signature, version and the byte count of 29 entries. -/
theorem imageOf_eq (values : List Nat) :
    imageOf values = [0xA6#8, 0x01#8, 0xAE#8, 0x00#8] ++ (Config.items.zip values).flatMap entryBytes := rfl

/-- Blocks of one length, the first of them left out. -/
theorem drop_flatMap {α : Type} {f : α → List Byte} {c : Nat} (hf : ∀ x, (f x).length = c) (l : List α) (i : Nat) :
    (l.flatMap f).drop (c * i) = (l.drop i).flatMap f := by
  induction i generalizing l with
  | zero => rfl
  | succ i ih =>
    cases l with
    | nil => simp
    | cons x l =>
      have hc : c * (i + 1) = (f x).length + c * i := by rw [hf, Nat.mul_succ, Nat.add_comm]
      rw [List.flatMap_cons, hc, List.drop_length_add_append, ih, List.drop_succ_cons]

section

variable {values : List Nat}

theorem imageOf_length (h : values.length = 29) : (imageOf values).length = 178 := by
  have hlen : ((Config.items.zip values).flatMap entryBytes).length = 6 * (Config.items.zip values).length := by
    rw [List.length_flatMap, List.map_congr_left fun p _ => entryBytes_length p, List.map_const', List.sum_replicate]
    exact Nat.mul_comm _ _
  rw [imageOf_eq, List.length_append, hlen, List.length_zip, h]
  rfl

/-- The image from an entry on. -/
theorem imageOf_drop (values : List Nat) (i : Nat) :
    (imageOf values).drop (4 + 6 * i) = ((Config.items.zip values).drop i).flatMap entryBytes := by
  rw [imageOf_eq, ← drop_flatMap entryBytes_length]
  exact List.drop_length_add_append (l₁ := [0xA6#8, 0x01#8, 0xAE#8, 0x00#8]) (6 * i)

/-- The six bytes of the image at the place of an entry are id and value of the item there. -/
theorem imageOf_entry {i v : Nat} {it : Config.Item} (hit : Config.items[i]? = some it) (hv : values[i]? = some v) :
    ((imageOf values).drop (4 + 6 * i)).take 2 = leBytes 2 it.id
    ∧ ((imageOf values).drop (4 + 6 * i + 2)).take 4 = leBytes 4 v := by
  have hzip : (Config.items.zip values)[i]? = some (it, v) := List.getElem?_zip_eq_some.mpr ⟨hit, hv⟩
  obtain ⟨hlt, hget⟩ := List.getElem?_eq_some_iff.mp hzip
  have hdrop : (imageOf values).drop (4 + 6 * i)
      = leBytes 2 it.id ++ (leBytes 4 v ++ ((Config.items.zip values).drop (i + 1)).flatMap entryBytes) := by
    rw [imageOf_drop, List.drop_eq_getElem_cons hlt, hget, List.flatMap_cons, entryBytes, List.append_assoc]
  have hvalue : (imageOf values).drop (4 + 6 * i + 2) = leBytes 4 v ++ ((Config.items.zip values).drop (i + 1)).flatMap entryBytes := by
    rw [← List.drop_drop, hdrop, List.drop_left' (leBytes_length 2 _)]
  exact ⟨hdrop ▸ List.take_left' (leBytes_length 2 _), hvalue ▸ List.take_left' (leBytes_length 4 _)⟩

end

/-! ### The pages of a store (R177) -/

theorem storePage_middle (image : List Byte) {n : Nat} (h0 : n ≠ 0) (h6 : n ≠ 6) :
    storePage image n = (32 * n, (image.drop (32 * n)).take 32) := by
  unfold storePage
  split
  · exact absurd rfl h0
  · exact absurd rfl h6
  · rfl

theorem storePage_length (image : List Byte) {n : Nat} (h6 : n ≠ 6) : (storePage image n).2.length ≤ 32 := by
  rcases eq_or_ne n 0 with rfl | h0
  · simp [storePage]
  · rw [storePage_middle image h0 h6]
    exact List.length_take_le _ _

/-- The pages but the last begin at multiples of 32. -/
theorem storePage_address (image : List Byte) {n : Nat} (h6 : n ≠ 6) : (storePage image n).1 = 32 * n := by
  rcases eq_or_ne n 0 with rfl | h0
  · rfl
  · rw [storePage_middle image h0 h6]

/-- The memory link's transfers for each of the seven writes (R174). -/
theorem storeTransfers_eq {image : List Byte} {n : Nat} (hn : n ≤ 6) (clears : Bool) : storeTransfers image n clears =
    [Transfer.exchange [0x0E#8] [],
      Transfer.exchange (if n = 6 then [0x0A#8, 0#8, 0#8, 0xA6#8]
        else if n = 0 then [0x0A#8, 0#8, 0#8, 0#8] ++ (image.drop 1).take 31
        else [0x0A#8, 0#8, byteOf (32 * n)] ++ (image.drop (32 * n)).take 32) [],
      Transfer.polling 0x0D#8 clears] := by
  rcases eq_or_ne n 0 with rfl | h0
  · show [Transfer.writeEnable, Transfer.pageWrite 0 (0#8 :: (image.drop 1).take 31), Transfer.polls clears] = _
    rfl
  · rcases eq_or_ne n 6 with rfl | h6
    · show [Transfer.writeEnable, Transfer.pageWrite 0 [0xA6#8], Transfer.polls clears] = _
      rfl
    · have hhigh : 32 * n / 256 = 0 := by omega
      rw [storeTransfers, storePage_middle image h0 h6, if_neg h6, if_neg h0, Transfer.pageWrite, addressBytes, hhigh]
      rfl

/-- What the memory holds once write n has been done: its page in place of what stood there. -/
theorem read_storeWritten {s : State} {n : Nat} (hn : n ≤ 6) (hlen : s.settings.image.length = 178) (hwf : Memory.wf s.memory) (a : Nat) :
    Memory.read (s.storeWritten n) a = if n = 6 then (if a = 0 then 0xA6#8 else Memory.read s.memory a)
      else if 32 * n ≤ a ∧ a < min 178 (32 * n + 32) then (if a = 0 then 0#8 else s.settings.image.getD a 0#8)
      else Memory.read s.memory a := by
  rw [State.storeWritten, Memory.read_writeBytes hwf]
  rcases eq_or_ne n 0 with rfl | h0
  · have hpage : (storePage s.settings.image 0).2 = 0#8 :: (s.settings.image.drop 1).take 31 := rfl
    have hcount : (storePage s.settings.image 0).2.length = 32 := by rw [hpage]; simp [hlen]
    rw [if_neg (by decide : ¬ 0 = 6), hcount, storePage_address _ (by decide)]
    refine if_ctx_congr (by omega) (fun hin => ?_) fun _ => rfl
    rw [hpage]
    cases a with
    | zero => rfl
    | succ a =>
      have ha : a < 31 := by omega
      rw [if_neg a.succ_ne_zero]
      simp [ha]
  · rcases eq_or_ne n 6 with rfl | h6
    · rw [if_pos rfl]
      refine if_ctx_congr ?_ (fun h => ?_) fun _ => rfl
      · show 0 ≤ a ∧ a < 0 + 1 ↔ a = 0
        omega
      · rw [h]; rfl
    · rw [storePage_middle _ h0 h6, if_neg h6]
      have hcount : ((s.settings.image.drop (32 * n)).take 32).length = min 32 (178 - 32 * n) := by simp [hlen]
      refine if_ctx_congr (by rw [hcount]; omega) (fun hin => ?_) fun _ => rfl
      have hplace : 32 * n + (a - 32 * n) = a := by omega
      have hshort : a - 32 * n < 32 := by omega
      rw [if_neg (by omega)]
      simp [hshort, hplace]

end Sys2Proof.Machine
end


section
/-! PROOFS. The seven writes of a store, and a store read back by the next load (R174 to R178): O55, O9. -/

namespace Sys2Proof.Machine

/-! ### The writes (R177, R178) -/

section

variable {s : State} {n : Nat}

/-- The settings after write n has been done: the next write begins, or the store is OK. -/
def SettingsUnit.afterWrite (u : SettingsUnit) (n : Nat) : SettingsUnit :=
  if n < 6 then { u with store := .inProgress (n + 1) } else { u with store := .ok, image := [] }

theorem afterWrite_eq (u : SettingsUnit) (n : Nat) : u.afterWrite n
    = { u with store := if n < 6 then .inProgress (n + 1) else .ok, image := (u.afterWrite n).image } := by
  unfold SettingsUnit.afterWrite
  split <;> rfl

theorem exec_storeWriteComplete (h : s.settings.store = .inProgress n) : exec .storeWriteComplete s = .next { s with
    memory := s.storeWritten n, link := storeTransfers s.settings.image n true, settings := s.settings.afterWrite n } := by
  simp only [exec, execStoreWriteComplete, h]
  rfl

theorem exec_storeWriteTimeout (h : s.settings.store = .inProgress n) (left : List Byte) :
    exec (.storeWriteTimeout left) s = .next { s with
      memory := s.memoryAfterTimeout n left, link := storeTransfers s.settings.image n false
      settings := { s.settings with store := .failed n, image := [] } } := by
  simp only [exec, execStoreWriteTimeout, h]
  rfl

/-- A write that times out leaves the bytes outside its page as they were, and write 0 byte 0 as well. -/
theorem read_memoryAfterTimeout (left : List Byte) {a : Nat}
    (h : if n = 6 then a ≠ 0 else a < 32 * n ∨ 32 * n + 32 ≤ a ∨ (n = 0 ∧ a = 0)) :
    Memory.read (s.memoryAfterTimeout n left) a = Memory.read s.memory a := by
  have hcount := List.length_take_le (storePage s.settings.image n).2.length left
  unfold State.memoryAfterTimeout
  dsimp only
  by_cases h6 : n = 6
  · subst h6
    rw [if_pos rfl] at h
    rw [if_neg (by decide)]
    refine Memory.read_writeBytes_other _ _ a (.inr ?_)
    change _ ≤ 1 at hcount
    change 0 + _ ≤ a
    omega
  · rw [if_neg h6] at h
    have hpage := storePage_length s.settings.image h6
    split
    · next h0 =>
      refine Memory.read_writeBytes_other _ _ a ?_
      rw [List.length_drop]
      omega
    · rw [storePage_address _ h6]
      exact Memory.read_writeBytes_other _ _ a (by omega)

end

theorem storeSettings_accepts {s : State} {bytes : List Byte} (hstore : s.settings.storing = false) : storeSettingsBody .panel bytes s
    = .ok (s.withSettings { s.settings with store := .inProgress 0, image := imageOf s.settings.values }, []) :=
  if_neg (by simp [hstore])

/-- Settles O55: the command, then each write by what it puts on the link and into the memory. -/
theorem storeWritesSevenPages : Obligations.StoreWritesSevenPages := by
  refine ⟨fun s bytes htakes hstore => ?_, fun s n hn hle hlen => ⟨⟨_, exec_storeWriteComplete hn, ?_, fun hlt => ?_,
      fun hwf => read_storeWritten hle hlen hwf⟩,
    fun left => ⟨_, exec_storeWriteTimeout hn left, ?_, fun h0 _ => ?_, fun _ a ha => ?_⟩⟩⟩
  · exact execute_accepts htakes (storeSettings_accepts (s := s.takeCommand .panel) hstore) rfl
  · simp only [storeTransfers_eq hle]
    rw [← afterWrite_eq]
  · show (s.settings.afterWrite n).image = _
    rw [SettingsUnit.afterWrite, if_pos hlt]
  · simp only [storeTransfers_eq hle]
  · subst h0
    exact read_memoryAfterTimeout (n := 0) (a := 0) left (by simp)
  · refine read_memoryAfterTimeout left ?_
    split at ha
    · exact (if_pos ‹_›).mpr ha
    · exact (if_neg ‹_›).mpr (ha.imp_right .inl)

/-! ### Several events (the model's own execAll) -/

theorem execAll_cons {c : Instr} {s t : State} (h : exec c s = .next t) (cs : List Instr) : execAll (c :: cs) s = execAll cs t := by
  rw [execAll, h]

/-- What each of a number of like events brings on by one, all of them bring on by their number. -/
theorem execAll_replicate {P : Nat → State → Prop} {c : Instr} {n : Nat}
    (hstep : ∀ k s, k < n → P k s → ∃ t, exec c s = .next t ∧ P (k + 1) t) (rest : List Instr) :
    ∀ {j k : Nat}, k + j = n → ∀ {s : State}, P k s → ∃ t, execAll (List.replicate j c ++ rest) s = execAll rest t ∧ P n t := by
  intro j
  induction j with
  | zero => rintro k rfl s h; exact ⟨s, rfl, h⟩
  | succ j ih =>
    intro k hk s h
    obtain ⟨t, hexec, ht⟩ := hstep k s (by omega) h
    obtain ⟨u, hall, hu⟩ := ih (by omega) ht
    exact ⟨u, (execAll_cons hexec _).trans hall, hu⟩

/-! ### A store from its first write to its last (R177) -/

/-- The store of the image has n of its writes behind it: the memory holds the image up to there, but for byte 0. -/
structure State.Storing (image : List Byte) (n : Nat) (s : State) : Prop where
  store : s.settings.store = .inProgress n
  held : s.settings.image = image
  wf : Memory.wf s.memory
  bytes : ∀ a, a ≠ 0 → a < min 178 (32 * n) → Memory.read s.memory a = image.getD a 0#8

section

variable {image : List Byte} {s : State}

theorem State.Storing.next (hlen : image.length = 178) {n : Nat} (hn : n < 6) (h : s.Storing image n) :
    ∃ t, exec .storeWriteComplete s = .next t ∧ t.Storing image (n + 1) := by
  have hunit : s.settings.afterWrite n = { s.settings with store := .inProgress (n + 1) } := if_pos hn
  refine ⟨_, exec_storeWriteComplete h.store, congrArg SettingsUnit.store hunit, (congrArg SettingsUnit.image hunit).trans h.held,
    Memory.writeBytes_wf _ _ h.wf, fun a h0 ha => ?_⟩
  refine (read_storeWritten hn.le (h.held ▸ hlen) h.wf a).trans ?_
  rw [if_neg hn.ne, if_neg h0]
  split
  · rw [h.held]
  · exact h.bytes a h0 (by omega)

/-- The last write puts the signature in place, and the memory holds the whole image. -/
theorem State.Storing.last (hlen : image.length = 178) (hsignature : image.getD 0 0#8 = 0xA6#8) (h : s.Storing image 6) :
    ∃ t, exec .storeWriteComplete s = .next t ∧ ∀ a, a < 178 → Memory.read t.memory a = image.getD a 0#8 := by
  refine ⟨_, exec_storeWriteComplete h.store, fun a ha => ?_⟩
  refine (read_storeWritten (Nat.le_refl 6) (h.held ▸ hlen) h.wf a).trans ?_
  rw [if_pos rfl]
  split
  · next h0 => rw [h0, hsignature]
  · next h0 => exact h.bytes a h0 (by omega)

end

/-! ### The load of a stored image (R175, R176) -/

/-- The Settings Unit once n entries of a whole image of these values have been applied. -/
def loadedUpTo (values : List Nat) (n : Nat) : SettingsUnit :=
  { SettingsUnit.powerUp .loaded 29 false with
    values := values.take n ++ (Config.items.map Config.Item.dflt).drop n, applied := n, entriesRead := n }

theorem itemAt_place {k : Nat} {it : Config.Item} (h : Config.items[k]? = some it) : itemAt it.id = some (k, it) := by
  have hall : ∀ i : Fin 29, itemAt (Config.items[i]).id = some (i.val, Config.items[i]) := by decide
  obtain ⟨hlt, rfl⟩ := List.getElem?_eq_some_iff.mp h
  exact hall ⟨k, hlt⟩

/-- An id and an accepted value fit the two and the four bytes of an entry. -/
theorem item_widths {it : Config.Item} (h : it ∈ Config.items) : it.id < 256 ^ 2 ∧ it.high < 256 ^ 4 := by
  have hall : ∀ it ∈ Config.items, it.id < 256 ^ 2 ∧ it.high < 256 ^ 4 := by decide
  exact hall it h

theorem take_append_drop_set {l d : List Nat} {k v : Nat} (hv : l[k]? = some v) (hd : k < d.length) :
    (l.take k ++ d.drop k).set k v = l.take (k + 1) ++ d.drop (k + 1) := by
  obtain ⟨hlt, -⟩ := List.getElem?_eq_some_iff.mp hv
  have htake : (l.take k).length = k := List.length_take_of_le hlt.le
  rw [List.set_append_right k v htake.le, htake, Nat.sub_self, List.drop_eq_getElem_cons hd, List.set_cons_zero, List.take_add_one, hv,
    List.append_assoc]
  rfl

section

variable {values : List Nat} {m : List Host.Cell}

/-- The next entry of a stored image is applied: its item accepts the value stored (R176). -/
theorem loadNext_stored (hfit : ValuesFit values) (hm : ∀ a, a < 178 → Memory.read m a = (imageOf values).getD a 0#8) {k : Nat}
    (hk : k < 29) : loadNext m (loadedUpTo values k) = loadedUpTo values (k + 1) := by
  have hlen : values.length = 29 := hfit.all
  have hitem : Config.items[k]? = some Config.items[k] := List.getElem?_eq_getElem hk
  have hvalue : values[k]? = some values[k] := List.getElem?_eq_getElem (hlen ▸ hk)
  have haccept := hfit.accepts hitem hvalue
  obtain ⟨hid, hhigh⟩ := item_widths (List.getElem_mem hk)
  obtain ⟨-, hle, -⟩ := itemAccepts_iff.mp haccept
  obtain ⟨hidBytes, hvalueBytes⟩ := imageOf_entry hitem hvalue
  have hbytes : ∀ a n, a + n ≤ 178 → Memory.readBytes m a n = ((imageOf values).drop a).take n := fun a n ha =>
    Memory.readBytes_eq (by rwa [imageOf_length hlen]) fun i hi => hm _ (by omega)
  refine (loadNext_left hk).trans ?_
  show { SettingsUnit.applyEntry _ (leValue (Memory.readBytes m (4 + 6 * k) 2)) (leValue (Memory.readBytes m (4 + 6 * k + 2) 4)) with
    entriesRead := k + 1 } = _
  rw [hbytes _ 2 (by omega), hbytes _ 4 (by omega), hidBytes, hvalueBytes, leValue_leBytes, leValue_leBytes, Nat.mod_eq_of_lt hid,
    Nat.mod_eq_of_lt (by omega), applyEntry_applied (itemAt_place hitem) haccept]
  have hset := take_append_drop_set (d := Config.items.map Config.Item.dflt) hvalue hk
  simp only [loadedUpTo, hset]

/-- A power-on that finds the stored image begins a load of 29 whole entries (R175). -/
theorem beginLoad_stored (hm : ∀ a, a < 178 → Memory.read m a = (imageOf values).getD a 0#8) :
    beginLoad [0#8] m = loadedUpTo values 0 := by
  have hread : ∀ a b, a < 4 → ([0xA6#8, 0x01#8, 0xAE#8, 0x00#8] : List Byte)[a]? = some b → Memory.read m a = b := fun a b ha hb => by
    rw [hm a (by omega), imageOf_eq, List.getD_eq_getElem?_getD, List.getElem?_append_left ha, hb, Option.getD_some]
  have hcount : headerCount m = 174 := by
    rw [headerCount_eq, hread 2 _ (by decide) rfl, hread 3 _ (by decide) rfl]
    rfl
  rw [beginLoad_loaded rfl (hread 0 _ (by decide) rfl) (hread 1 _ (by decide) rfl), hcount]
  rfl

/-- The load of the image has applied n entries. -/
structure State.LoadedUpTo (values : List Nat) (m : List Host.Cell) (n : Nat) (s : State) : Prop where
  held : s.held = false
  memory : s.memory = m
  settings : s.settings = loadedUpTo values n

theorem State.LoadedUpTo.next (hfit : ValuesFit values) (hm : ∀ a, a < 178 → Memory.read m a = (imageOf values).getD a 0#8) {s : State}
    {k : Nat} (hk : k < 29) (h : s.LoadedUpTo values m k) : ∃ t, exec .loadEntry s = .next t ∧ t.LoadedUpTo values m (k + 1) := by
  have hload : s.loading = true := by rw [State.loading, h.settings]; rfl
  refine ⟨_, exec_loadEntry h.held hload (by rw [h.settings]; exact hk), h.held, h.memory, ?_⟩
  show loadNext s.memory s.settings = _
  rw [h.memory, h.settings, loadNext_stored hfit hm hk]

end

/-- Settles O9: six pages and the signature make the memory hold the image, whose 29 entries the load then applies one by one. -/
theorem storeThenLoadRestoresTheSettings : Obligations.StoreThenLoadRestoresTheSettings := by
  intro radr s hrange hwf hstore himage
  let values := s.settings.values
  let load := List.replicate 29 Instr.loadEntry
  have hlen : (imageOf values).length = 178 := imageOf_length hrange.all
  have hbegun : s.Storing (imageOf values) 0 := ⟨hstore, himage, hwf, fun a _ ha => absurd ha (by omega)⟩
  obtain ⟨paged, hpages, hpaged⟩ := execAll_replicate (P := State.Storing (imageOf values)) (fun k _ hk h => h.next hlen hk)
    (.storeWriteComplete :: .powerOn radr [0#8] false :: load) (j := 6) rfl hbegun
  obtain ⟨stored, hlast, hm⟩ := hpaged.last hlen rfl
  let on := stored.startPart radr [0#8] (stored.memoryAfterCut false)
  have hpower : exec (.powerOn radr [0#8] false) stored = .next on := rfl
  have hcut := memoryAfterCut_unlanded stored
  have hloading : on.LoadedUpTo values stored.memory 0 := ⟨rfl, hcut, by
    show beginLoad [0#8] (stored.memoryAfterCut false) = _
    rw [hcut, beginLoad_stored hm]⟩
  obtain ⟨t, hentries, ht⟩ := execAll_replicate (P := State.LoadedUpTo values stored.memory) (fun k _ hk h => h.next hrange.fit hm hk)
    [] (j := 29) rfl hloading
  have hvalues : values.take 29 ++ (Config.items.map Config.Item.dflt).drop 29 = values := by
    rw [List.take_of_length_le (l := values) (i := 29) hrange.all.le, List.drop_of_length_le (by decide), List.append_nil]
  refine ⟨t, ?_, ?_⟩
  · calc execAll (List.replicate 7 .storeWriteComplete ++ [.powerOn radr [0#8] false] ++ load) s
      _ = execAll (List.replicate 6 .storeWriteComplete ++ (.storeWriteComplete :: .powerOn radr [0#8] false :: load)) s := rfl
      _ = execAll (.storeWriteComplete :: .powerOn radr [0#8] false :: load) paged := hpages
      _ = execAll (.powerOn radr [0#8] false :: load) stored := execAll_cons hlast _
      _ = execAll load on := execAll_cons hpower _
      _ = some t := (congrArg (execAll · on) (List.append_nil load).symm).trans hentries
  · rw [ht.settings]
    exact ⟨hvalues, rfl, rfl, rfl, rfl, rfl, rfl⟩

end Sys2Proof.Machine
end


section
/-! PROOFS. What a boundary brings, how its shares are taken, and that none is left where none is deferred (R84, R85, R176): O18. -/

namespace Sys2Proof.Machine

/-! ### The agenda (R82, R84) -/

/-- The shares that a boundary sets out. -/
theorem mem_agenda {s : State} {w : Work} : w ∈ s.agenda ↔ match w with
    | .count k => k ∈ allSlots
    | .judge st => st < 6
    | .alertTick | .syncTick => True
    | .relays => s.time.atPeriod = false
    | .closePeriod | .openPeriod => s.time.atPeriod = true
    | .clock | .refresh => s.time.atSecond = true
    | .loadEnd => s.loading = true
    | .released _ => False := by
  have hload : w ∈ (if s.loading then [Work.loadEnd] else []) ↔ s.loading = true ∧ w = .loadEnd := by
    split <;> simp_all
  have hperiod : w ∈ (if s.time.atPeriod then [Work.closePeriod, .openPeriod] else [.relays])
      ↔ if s.time.atPeriod then w = .closePeriod ∨ w = .openPeriod else w = .relays := by
    split <;> simp
  have hclock : w ∈ (if s.time.atSecond then [Work.clock] else []) ↔ s.time.atSecond = true ∧ w = .clock := by
    split <;> simp_all
  have hrefresh : w ∈ (if s.time.atSecond then [Work.refresh] else []) ↔ s.time.atSecond = true ∧ w = .refresh := by
    split <;> simp_all
  simp only [State.agenda, List.mem_append, hload, hperiod, hclock, hrefresh]
  cases w <;> simp

/-- Every share of a boundary has its place in the default order (log 3). -/
theorem mem_defaultOrder {s : State} {w : Work} (h : w ∈ s.agenda) : w ∈ defaultOrder := by
  have hw := mem_agenda.mp h
  cases w with
  | count k => simpa [defaultOrder, engineWork] using hw
  | judge st => simpa [defaultOrder, engineWork] using hw
  | released k => exact hw.elim
  | relays | closePeriod | openPeriod | alertTick | syncTick | clock | refresh | loadEnd => simp [defaultOrder, engineWork]

theorem boundary_atSecond {t : TimeBase} (lines : Lines) (h : t.slice < 10) :
    (t.boundary lines).atSecond = true ↔ t.slice + 1 = 10 := by
  simp only [TimeBase.atSecond, TimeBase.boundary, beq_iff_eq]
  split <;> omega

theorem boundary_atPeriod {t : TimeBase} (lines : Lines) (h : t.slice < 10) (h' : t.second < 10) :
    (t.boundary lines).atPeriod = true ↔ t.slice + 1 = 10 ∧ t.second + 1 = 10 := by
  simp only [TimeBase.atPeriod_eq, TimeBase.boundary, Bool.and_eq_true, decide_eq_true_eq]
  split
  · omega
  · split <;> omega

theorem makeBoundary_awaits {s : State} {lines : Lines} {w : Work} :
    (s.makeBoundary lines).awaits w = true ↔ w ∈ (s.makeBoundary lines).agenda := awaits_iff

/-! ### One share, with what must precede it (R50, R90, R98) -/

section

variable {s : State} {w : Work}

theorem take_alone (h : s.awaits w = true) (hw : s.take w = s.takeOne w) : s.take w = (s.without w).perform w :=
  hw.trans (takeOne_awaited h)

/-- The Record Engine's work being taken, nothing of it stands before the opening. -/
theorem take_openPeriod_alone (h : s.awaits .openPeriod = true) (hclose : s.awaits .closePeriod = false)
    (hengine : ∀ v ∈ engineWork, s.awaits v = false) : s.take .openPeriod = s.takeOne .openPeriod := by
  rw [State.take, if_pos h]
  simp only [takeEngine_done hclose hengine]

/-- With all of the counting before it or all of it behind it, a refresh takes nothing but SYNC's count along. -/
theorem take_refresh_alone (h : s.awaits .refresh = true) (hsync : s.awaits .syncTick = false) (hclose : s.awaits .closePeriod = false)
    (hengine : (∀ v ∈ engineWork, s.awaits v = true) ∨ ∀ v ∈ engineWork, s.awaits v = false) :
    s.take .refresh = s.takeOne .refresh := by
  rcases hengine with hall | hnone
  · rw [take_refresh_first h (List.all_eq_true.mpr hall), takeOne_absent hsync]
  · have hsome : engineWork.all s.awaits = false := by
      have hclock : Work.clock ∈ engineWork := mem_engineWork.mpr (.inr rfl)
      exact List.all_eq_false.mpr ⟨_, hclock, by simp [hnone _ hclock]⟩
    rw [take_refresh_after h hsome, takeEngine_done hclose hnone, takeOne_absent hsync]

/-- A share that has been taken is not to be taken again. -/
theorem take_awaits_self (s : State) {w : Work} (hw : isNote w = false) : (s.take w).awaits w = false := by
  have hone : ∀ u : State, (u.takeOne w).awaits w = false := fun u => (takeOne_took u w).taken w (List.mem_singleton.mpr rfl) hw
  cases h : s.awaits w with
  | false => rw [take_absent h, h]
  | true =>
    unfold State.take
    rw [if_pos h]
    cases w with
    | released k => exact absurd hw (by simp [isNote])
    | _ => exact hone _

end

/-! ### What a boundary's work leaves to be done (R84, R85, R176) -/

/-- The reading of the clock once its share of the boundary, if it is still to be taken, has been taken (R85). -/
def State.readingDue (s : State) : Nat := if s.awaits .clock then s.time.nextReading else s.time.clock

/-- Every note that an offset began waits for the clock's share (R76). -/
def State.NotesWait (s : State) : Prop := ∀ k, s.awaits (.released k) = true → s.awaits .clock = true

/-- The load in progress has found its final status, and its end is still to be taken. -/
def State.LoadEndWaits (s : State) : Prop := s.settings.finding ≠ .loading ∧ (s.loading = true → s.awaits .loadEnd = true)

/-- Shares have been taken: none is added, notes wait for the clock, the load for its end, and the clock comes to the same reading. -/
structure State.Worked (s t : State) : Prop where
  adds_none : ∀ v, isNote v = false → t.awaits v = true → s.awaits v = true
  notes : s.NotesWait → t.NotesWait
  load : s.LoadEndWaits → t.LoadEndWaits
  reading : t.readingDue = s.readingDue

theorem State.Worked.chains : Chains State.Worked where
  refl _ := ⟨fun _ _ => id, id, id, rfl⟩
  trans h g := ⟨fun v hv => h.adds_none v hv ∘ g.adds_none v hv, g.notes ∘ h.notes, g.load ∘ h.load, g.reading.trans h.reading⟩

/-- Only the clock's share advances the clock. -/
theorem perform_time (s : State) {w : Work} (hw : w ≠ .clock) : (s.perform w).time = s.time := by
  cases w with
  | count k => exact (countRecord_sameHost s k).time
  | judge st => exact (judgeStation_sameHost s st).time
  | openPeriod => exact (openPeriod_sameHost s).time
  | alertTick => exact (alertTick_sameHost s).time
  | refresh => show s.refreshDue.time = _; unfold State.refreshDue; split <;> rfl
  | loadEnd => show s.endLoad.time = _; rw [endLoad_eq]
  | relays | closePeriod | syncTick | released _ => rfl
  | clock => exact absurd rfl hw

/-- A note is left by an offset that begins while the clock's share waits, and by nothing else (R76). -/
theorem perform_note {s : State} {w : Work} {k : Nat} (h : (s.perform w).awaits (.released k) = true) :
    s.awaits (.released k) = true ∨ s.awaits .clock = true := by
  have hstands : ∀ {t : State}, t.todo = s.todo → t.awaits (.released k) = true →
      s.awaits (.released k) = true ∨ s.awaits .clock = true :=
    fun htodo ht => .inl (by rwa [awaits_iff, htodo, ← awaits_iff] at ht)
  cases w with
  | count j =>
    rcases countRecord_cases s j with ⟨-, htodo⟩ | ⟨r, q, before, after, -, -, -, hafter, -, -, htodo⟩
    · exact hstands htodo h
    · have htodo' : after.todo = s.todo := by rw [hafter, endStage_todo]; rfl
      change (s.countRecord j).awaits _ = true at h
      rw [awaits_iff, htodo, ← awaits_iff] at h
      rcases leaveStarted_awaits_iff.mp h with ⟨hstood, -⟩ | ⟨hclock, -⟩
      · exact hstands htodo' hstood
      · exact .inr (by rwa [awaits_iff, htodo', ← awaits_iff] at hclock)
  | clock =>
    obtain ⟨hnote, -⟩ := advanceClock_awaits.mp h
    exact absurd hnote (by simp [isNote])
  | judge st => exact hstands (judgeStation_todo s st) h
  | alertTick => exact hstands (alertTick_todo s) h
  | refresh => exact hstands (by show s.refreshDue.todo = _; unfold State.refreshDue; split <;> rfl) h
  | loadEnd => exact hstands (by show s.endLoad.todo = _; rw [endLoad_eq]) h
  | relays | closePeriod | openPeriod | syncTick | released _ => exact hstands rfl h

section

variable {s : State} {w : Work}

/-- A share other than the one taken, and other than a countdown, stands as it stood. -/
theorem takeOne_awaits_other {v : Work} (hne : v ≠ w) (hv : isNote v = false) (hcount : ∀ k, v ≠ .count k) :
    (s.takeOne w).awaits v = s.awaits v :=
  Bool.eq_iff_iff.mpr ⟨(takeOne_took s w).adds_none v hv,
    (takeOne_took s w).leaves v (mt List.mem_singleton.mp hne) hv hcount⟩

theorem takeOne_notes (h : s.awaits w = true) (hs : s.NotesWait) : (s.takeOne w).NotesWait := by
  intro k hk
  rw [takeOne_awaited h] at hk
  change ((s.without w).perform w).awaits _ = true at hk
  rcases eq_or_ne w .clock with rfl | hw
  · obtain ⟨hnote, -⟩ := advanceClock_awaits.mp hk
    exact absurd hnote (by simp [isNote])
  · rw [takeOne_awaits_other (Ne.symm hw) rfl (by simp)]
    rcases perform_note hk with hstood | hclock
    · rw [without_awaits, Bool.and_eq_true] at hstood
      exact hs k hstood.1
    · rw [without_awaits, Bool.and_eq_true] at hclock
      exact hclock.1

/-- The end of the load sets the status found; no other share looks at the load. -/
theorem takeOne_load (h : s.awaits w = true) (hs : s.LoadEndWaits) : (s.takeOne w).LoadEndWaits := by
  obtain ⟨hfound, hwaits⟩ := hs
  rcases eq_or_ne w .loadEnd with rfl | hw
  · have hunit : (s.takeOne .loadEnd).settings = s.settings.finishLoad s.memory := by
      rw [takeOne_awaited h]
      exact endLoad_settings (s.without .loadEnd)
    obtain ⟨hloader, hfinding⟩ := finishLoad_status s.memory s.settings
    refine ⟨by rwa [hunit, hfinding], fun hl => absurd ?_ hfound⟩
    rwa [State.loading, hunit, hloader, beq_iff_eq] at hl
  · have hunit : (s.takeOne w).settings = s.settings := by
      rw [takeOne_awaited h]
      exact perform_settings (s.without w) hw
    refine ⟨by rwa [hunit], fun hl => ?_⟩
    rw [takeOne_awaits_other (Ne.symm hw) rfl (by simp)]
    exact hwaits (by rwa [State.loading, hunit] at hl)

theorem takeOne_reading (h : s.awaits w = true) : (s.takeOne w).readingDue = s.readingDue := by
  rcases eq_or_ne w .clock with rfl | hw
  · have htaken := (takeOne_took s .clock).taken .clock (List.mem_singleton.mpr rfl) rfl
    rw [State.readingDue, State.readingDue, htaken, h, takeOne_awaited h]
    show (s.without .clock).advanceClock.time.clock = _
    rw [advanceClock_eq]
    rfl
  · have htime : (s.takeOne w).time = s.time := by
      rw [takeOne_awaited h]
      exact perform_time (s.without w) hw
    rw [State.readingDue, State.readingDue, takeOne_awaits_other (Ne.symm hw) rfl (by simp), htime]

end

theorem takeOne_worked (s : State) (w : Work) : s.Worked (s.takeOne w) := by
  cases h : s.awaits w with
  | false => rw [takeOne_absent h]; exact State.Worked.chains.refl s
  | true => exact ⟨(takeOne_took s w).adds_none, takeOne_notes h, takeOne_load h, takeOne_reading h⟩

theorem foldl_take_worked (ws : List Work) (s : State) : s.Worked (ws.foldl State.take s) :=
  State.Worked.chains.foldl (State.Worked.chains.take takeOne_worked) ws s

/-- Each of the shares named has been taken. -/
theorem foldl_take_awaits {w : Work} (hw : isNote w = false) {ws : List Work} (hmem : w ∈ ws) (s : State) :
    (ws.foldl State.take s).awaits w = false := by
  induction ws generalizing s with
  | nil => exact absurd hmem List.not_mem_nil
  | cons v ws ih =>
    rcases List.mem_cons.mp hmem with rfl | hmem
    · have hrest := (foldl_take_worked ws (s.take w)).adds_none w hw
      exact Bool.eq_false_iff.mpr fun h => Bool.eq_false_iff.mp (take_awaits_self s hw) (hrest h)
    · exact ih hmem (s.take v)

/-! ### The whole boundary (R84) -/

section

variable {s : State} (lines : Lines) (first : List Work)

/-- A boundary made brings no note. -/
theorem makeBoundary_notes (s : State) : (s.makeBoundary lines).NotesWait := fun _ h => (mem_agenda.mp (makeBoundary_awaits.mp h)).elim

theorem makeBoundary_load (h : s.settings.finding ≠ .loading) : (s.makeBoundary lines).LoadEndWaits :=
  ⟨h, fun hl => makeBoundary_awaits.mpr (mem_agenda.mpr hl)⟩

theorem makeBoundary_reading (s : State) : (s.makeBoundary lines).readingDue
    = if s.time.slice + 1 < 10 then s.time.clock else (s.time.clock + 1) % 86400 := by
  have hclock : (s.makeBoundary lines).awaits .clock = true ↔ ¬ s.time.slice + 1 < 10 := by
    rw [makeBoundary_awaits, mem_agenda]
    show (s.time.boundary lines).atSecond = true ↔ _
    simp only [TimeBase.atSecond, TimeBase.boundary, beq_iff_eq]
    split <;> simp_all
  rw [State.readingDue]
  split
  · next h => rw [if_neg (hclock.mp h)]; rfl
  · next h => rw [if_pos (not_not.mp (mt hclock.mpr h))]; rfl

/-- A boundary is made, then the shares named first are taken, then the others that are not left to later events. -/
theorem takeBoundary_eq (s : State) (later : List Work) : s.takeBoundary lines first later
    = (defaultOrder.filter (fun w => !later.contains w)).foldl State.take
        (first.foldl State.take (s.finishBoundary.makeBoundary lines)) := rfl

/-- With nothing deferred, the default order takes every share that the works named first have left. -/
theorem takeBoundary_done (s : State) :
    let made := s.finishBoundary.makeBoundary lines
    let t := s.takeBoundary lines first []
    made.Worked t ∧ t.todo = [] := by
  intro made t
  have hall : defaultOrder.filter (fun w => !([] : List Work).contains w) = defaultOrder := List.filter_eq_self.mpr fun _ _ => rfl
  have ht : t = defaultOrder.foldl State.take (first.foldl State.take made) := by
    rw [← hall]
    exact takeBoundary_eq lines first s []
  have hworked : made.Worked t := ht ▸ State.Worked.chains.trans (foldl_take_worked first made) (foldl_take_worked defaultOrder _)
  have hshares : ∀ w, isNote w = false → t.awaits w = false := fun w hw => Bool.eq_false_iff.mpr fun h => by
    have hmem : w ∈ defaultOrder := mem_defaultOrder (makeBoundary_awaits.mp (hworked.adds_none w hw h))
    exact Bool.eq_false_iff.mp (ht ▸ foldl_take_awaits hw hmem _) h
  refine ⟨hworked, List.eq_nil_iff_forall_not_mem.mpr fun w hw => ?_⟩
  have hwaits : t.awaits w = true := awaits_iff.mpr hw
  cases hnote : isNote w with
  | false => exact Bool.eq_false_iff.mp (hshares w hnote) hwaits
  | true =>
    cases w with
    | released k =>
      exact Bool.eq_false_iff.mp (hshares .clock rfl) (hworked.notes (makeBoundary_notes lines s.finishBoundary) k hwaits)
    | _ => exact absurd hnote (by simp [isNote])

end

theorem finishBoundary_eq (s : State) : s.finishBoundary = if s.todo = [] then s else defaultOrder.foldl State.take s :=
  if_congr List.isEmpty_iff rfl rfl

/-- Settles O18: the shares left by the whole order, the boundary's own steps, its agenda, and each share by itself. -/
theorem boundaryLeavesNoWork : Obligations.BoundaryLeavesNoWork := by
  refine ⟨fun lines first s hheld hnone hfound => ?_, fun lines first later s hheld => ?_, fun lines s => ⟨rfl, fun h h' w => ?_⟩,
    fun s w => ⟨take_absent, fun h => ?_⟩⟩
  · let last := s.withTime { s.time with cycle := s.time.sliceLength - 1 }
    have hlast : last.finishBoundary = last := by
      rw [finishBoundary_eq]
      exact if_pos hnone
    have hdone := takeBoundary_done lines first last
    rw [hlast] at hdone
    obtain ⟨hworked, htodo⟩ := hdone
    have hnot : ∀ w, (last.takeBoundary lines first []).awaits w = false := fun w => by rw [State.awaits, htodo]; rfl
    obtain ⟨-, hload⟩ := hworked.load (makeBoundary_load (s := last) lines hfound)
    refine ⟨last.takeBoundary lines first [], exec_sliceBoundary hheld lines first [], htodo, Bool.eq_false_iff.mpr fun hl => ?_, ?_⟩
    · exact Bool.eq_false_iff.mp (hnot .loadEnd) (hload hl)
    · have htaken : (last.takeBoundary lines first []).readingDue = (last.takeBoundary lines first []).time.clock :=
        if_neg (Bool.eq_false_iff.mp (hnot .clock))
      have hslice : last.time.slice = s.time.slice := rfl
      have hclock : last.time.clock = s.time.clock := rfl
      rw [← htaken, hworked.reading, makeBoundary_reading, hslice, hclock]
  · intro last made
    have hmade : last.finishBoundary.makeBoundary lines = made := congrArg (State.makeBoundary · lines) (finishBoundary_eq last)
    have hexec : exec (.sliceBoundary lines first later) s = .next (last.takeBoundary lines first later) :=
      exec_sliceBoundary hheld lines first later
    rw [hexec, takeBoundary_eq, hmade]
  · rw [makeBoundary_awaits, mem_agenda]
    have hsecond := boundary_atSecond lines h
    have hperiod := boundary_atPeriod lines h h'
    cases w with
    | count k => exact mem_allSlots
    | relays => exact Bool.eq_false_iff.trans (not_congr hperiod)
    | closePeriod | openPeriod => exact hperiod
    | clock | refresh => exact hsecond
    | judge _ | alertTick | syncTick | loadEnd | released _ => exact Iff.rfl
  · cases w with
    | count k => exact fun hclose => take_alone h (take_count h hclose)
    | openPeriod => exact fun hclose hengine => take_alone h (take_openPeriod_alone h hclose hengine)
    | refresh => exact fun hsync hclose hengine => take_alone h (take_refresh_alone h hsync hclose hengine)
    | released k => exact if_pos h
    | judge _ | alertTick | syncTick | relays | closePeriod | clock | loadEnd => exact take_alone h (if_pos h)

end Sys2Proof.Machine
end


section
/-! PROOFS. What an event leaves of the queue of waiting commands, which only a step takes from (log 1): O1, O3. -/

namespace Sys2Proof.Machine

/-- The queue of waiting commands stands. -/
def State.SamePending (s t : State) : Prop := t.pending = s.pending

theorem State.SamePending.chains : Chains State.SamePending where
  refl _ := rfl
  trans h g := g.trans h

namespace State.SamePending

theorem refl (s : State) : s.SamePending s := chains.refl s
theorem trans {s t u : State} (h : s.SamePending t) (g : t.SamePending u) : s.SamePending u := chains.trans h g
theorem ite {s t u : State} {c : Prop} [Decidable c] (h : s.SamePending t) (g : s.SamePending u) :
    s.SamePending (if c then t else u) := chains.ite h g

end State.SamePending

theorem State.SameHost.samePending {s t : State} (h : s.SameHost t) : s.SamePending t := h.pending

theorem State.SameBoard.samePending {s t : State} (h : s.SameBoard t) : s.SamePending t := h.pending

theorem withSettings_samePending (s : State) (u : SettingsUnit) : s.SamePending (s.withSettings u) := State.withSettings_pending s u

/-! ### A crystal cycle and its boundary (R82, R84) -/

/-- Neither the making of a boundary nor a share of its work takes from the queue. -/
theorem crystalCycle_samePending (s : State) (lines : Lines) (first later : List Work) :
    s.SamePending (s.crystalCycle lines first later) := by
  have hboundary : s.SamePending (s.takeBoundary lines first later) :=
    State.SamePending.chains.takeBoundary (fun u w => (takeOne_sameBoard u w).samePending) (fun u _ => .refl u) s lines first later
  exact .ite (.refl s) (.ite hboundary (State.withTime_pending s _))

theorem toLastCycle_samePending (s : State) : s.SamePending s.toLastCycle := .ite (.refl s) (State.withTime_pending s _)

/-! ### The Command Unit (R139) -/

theorem setItemBody_samePending (p : Port) (bytes : List Byte) (s : State) : LeadsTo s.SamePending (setItemBody p bytes s) := by
  refine .panelOnly (.notStoring ?_)
  dsimp only
  split
  · exact .error _
  · exact .ite (.ok ((withSettings_samePending s _).trans (setItem_sameHost s _ _).samePending)) (.error _)

/-- The commands that reach beyond records and alerts write the reading, the settings or a port, never the queue. -/
theorem workOf_samePending {c : Instr} {code : Nat} (hcode : commandCode c = some code) (p : Port) (bytes : List Byte) (u : State) :
    LeadsTo u.SamePending (workOf code p bytes u) := by
  cases c with
  | setClock =>
    cases hcode
    exact .ite (.error _) (.guarded (.ok (State.SamePending.trans (State.withTime_pending u _) (placeAll_sameHost _ _).samePending)))
  | window => cases hcode; exact .panelOnly (.ite (.ok (State.withPanel_pending u _)) (.error _))
  | setItem => cases hcode; exact setItemBody_samePending p bytes u
  | storeSettings => cases hcode; exact .panelOnly (.notStoring (.ok (withSettings_samePending u _)))
  | grant =>
    cases hcode
    exact .panelOnly (.notStoring (.ite (.error _) (.ok
      ((withSettings_samePending u _).trans (setPermission_sameHost u _ _).samePending))))
  | softReset => cases hcode; exact .panelOnly (.ok rfl)
  | _ => exact fun t data h => (workOf_sameHost hcode (by simp) p bytes u t data h).samePending

theorem conclude_samePending {s : State} {v : Verdict} (h : LeadsTo s.SamePending v) (p : Port) (tag : Byte) :
    s.SamePending (s.conclude p tag v) := by
  cases v with
  | error c => exact reply_pending s p _
  | ok x => exact (h x.1 x.2 rfl).trans (reply_pending (s.afterCommand x.1) p _)

/-- A command leaves its port's own queue, which is another than the queue of events. -/
theorem taken_samePending {s : State} {p : Port} {v : Verdict} (h : LeadsTo (s.takeCommand p).SamePending v) (tag : Byte) :
    s.SamePending ((s.takeCommand p).conclude p tag v) :=
  State.SamePending.trans (takeCommand_pending s p) (conclude_samePending h p tag)

theorem command_samePending {c : Instr} {code : Nat} (hcode : commandCode c = some code) {s t : State} (h : exec c s = .next t) :
    s.SamePending t := by
  rw [exec_eq_execute hcode] at h
  rw [← outcome_next_inj h]
  split
  · exact .refl s
  · next p bytes _ =>
    refine .ite (taken_samePending ?_ _) (.refl s)
    exact .ite (.error _) (.ite (.error _) (workOf_samePending hcode p bytes _))

theorem badCommand_samePending {s t : State} (h : exec .badCommand s = .next t) : s.SamePending t := by
  rw [← outcome_next_inj h]
  split
  · exact .refl s
  · split
    · exact .refl s
    · exact .ite (.refl s) (taken_samePending (.error _) _)

theorem commandWithoutCode_samePending {s t : State} (h : exec .commandWithoutCode s = .next t) : s.SamePending t := by
  rw [← outcome_next_inj h]
  split
  · exact .refl s
  · split
    · exact .refl s
    · exact taken_samePending (.error _) _

/-! ### Every event -/

/-- A write of a store changes the memory, the record of its link and the settings. -/
theorem storeWrite_samePending (s : State) (m : List Host.Cell) (ts : List Transfer) (u : SettingsUnit) :
    s.SamePending (((s.withMemory m).withLink ts).withSettings u) := by
  simp [State.SamePending]

/-- Power and RESETn begin again on the queue as it stands; the ports, the shares and the Command Unit do not look at it. -/
theorem exec_samePending (c : Instr) {s t : State} (h : exec c s = .next t) : s.SamePending t := by
  cases hcode : commandCode c with
  | some code => exact command_samePending hcode h
  | none =>
    cases c with
    | powerOn radr status landed => exact outcome_next_inj h ▸ rfl
    | resetnLow landed => exact outcome_next_inj h ▸ .ite (.refl s) rfl
    | resetnRelease radr status => exact outcome_next_inj h ▸ .ite rfl (.refl s)
    | sliceBoundary lines first later =>
      exact outcome_next_inj h ▸ (toLastCycle_samePending s).trans (crystalCycle_samePending _ _ _ _)
    | loadEntry => exact outcome_next_inj h ▸ .ite (.refl s) (State.withLink_pending _ _)
    | secondBoundary => exact outcome_next_inj h ▸ ((take_sameBoard s _).trans (take_sameBoard _ _)).samePending
    | loadEnd | periodBoundary => exact outcome_next_inj h ▸ (take_sameBoard s _).samePending
    | syncFall | delayDue _ | offsetDue _ | stageEnd _ | recordEnd _ | flameLoss _ | soundTimeout =>
      exact outcome_next_inj h ▸ .ite (take_sameBoard s _).samePending (.refl s)
    | badCommand => exact badCommand_samePending h
    | commandWithoutCode => exact commandWithoutCode_samePending h
    | storeWriteComplete | storeWriteTimeout _ =>
      rw [← outcome_next_inj h]
      split
      · exact storeWrite_samePending s _ _ _
      all_goals exact .refl s
    | commandFrameEnd bytes =>
      rw [← outcome_next_inj h]
      split
      · exact .ite (.refl s) (State.withPanel_pending s _)
      all_goals exact .refl s
    | readWindowEnd => exact outcome_next_inj h ▸ .ite (.refl s) (.ite rfl (State.withPanel_pending s _))
    | pcsFall | frameTypeByte _ | fetchLengthByte | windowEntry | portStatusByte _ | pcsRise =>
      exact outcome_next_inj h ▸ .ite (.refl s) (State.withPanel_pending s _)
    | i2cAddress _ _ | remoteWriteFirstByte _ | remoteWriteOverlong | remoteWriteEnd _ | readTransactionEnd =>
      exact outcome_next_inj h ▸ .ite (.refl s) (State.withRemote_pending s _)
    | _ => exact absurd hcode (by simp [commandCode])

/-- No meaning answers a fault or a refusal: what the part refuses, it answers with a result code (section 3.5 of 00_scope.md). -/
theorem exec_next (c : Instr) (s : State) : ∃ t, exec c s = .next t := by
  cases c <;> exact ⟨_, rfl⟩

/-- Settles O3: every meaning answers a next state, and each way it comes about leaves the queue alone. -/
theorem everyCommandGivesANextState : Obligations.EveryCommandGivesANextState := by
  intro c s
  obtain ⟨t, h⟩ := exec_next c s
  exact ⟨t, h, exec_samePending c h⟩

/-- Settles O1: a queue that is not empty has the command of its front run, and no crystal cycle. -/
theorem stepRunsTheFrontCommand : Obligations.StepRunsTheFrontCommand := by
  intro c rest s h
  unfold step
  rw [h]

end Sys2Proof.Machine
end
